-- ==== Sys2Proof/Word.lean ====
section
/-! DEFINITION. The word types of AEAD-SEQ: bytes, 32-bit words, 16-byte blocks (`spec/00_scope.md` R8, R9;
`spec/30_encoding.md` R70). -/

namespace Sys2Proof

/-- A byte of a byte string (`00_scope.md` R9). -/
abbrev Byte := BitVec 8

/-- A 32-bit register or plan word; bit 0 is the least significant (R8, R70). -/
abbrev Word := BitVec 32

/-- A 16-byte block, byte 0 first (R9, R35). -/
abbrev Block := Vector Byte 16

end Sys2Proof
end

