-- ==== Sys2Proof/Syntax.lean ====
section
/-! DEFINITION. The instructions of AEAD-SEQ: one constructor per row of `spec/opcode_table.json`, the four host
commands (`spec/40_host_commands.md`) and the nineteen plan-word rows (`spec/45_plan_ops.md`,
`spec/46_tag_verifier.md`). -/

namespace Sys2Proof

/-- The cipher mode a `KEYLD CE` loads into `CE.MODE` (`30_encoding.md` R82). -/
inductive CeMode where
  | ecb | cbc | ctr | gctr
deriving DecidableEq, Repr

/-- A direction: of the cipher engine (R80 field `DIR` of `KEYLD CE`) and of a request (`10_state.md` R33). -/
inductive Dir where
  | encrypt | decrypt
deriving DecidableEq, Repr

/-- The byte string a `HABS` absorbs (R82, `45_plan_ops.md` R215). -/
inductive AbsSrc where
  | aad | pin | pout | b0 | a0 | lenblk | digs | iv8
deriving DecidableEq, Repr

/-- The side of the cipher a `FUSE` absorbs: `IN` the cipher's input bytes, `OUT` its output bytes (R80 `HSEL`). -/
inductive Side where
  | input | output
deriving DecidableEq, Repr

/-- The destination of a `HEXT` (R82). -/
inductive ExtDst where
  | tags | digs
deriving DecidableEq, Repr

/-- The counter block whose encryption masks the tag in a `CTAG` (R82). -/
inductive MaskBlk where
  | ctr0 | j1
deriving DecidableEq, Repr

/-- What `TAGOUT` does with the tag (R80 field `DIR`, `46_tag_verifier.md` R240). -/
inductive TagMode where
  | store | cmp
deriving DecidableEq, Repr

/-- The instructions. `pad` is the number of zero bytes absorbed after the range, 0 to 15 (R80). -/
inductive Instr where
  | setkey
  | enc
  | dec
  | clrkey
  | keyldCe (mode : CeMode) (dir : Dir)
  | keyldMeXcbc
  | keyldMeCbcmac
  | keyldMeGhash
  | stldCeCiv
  | stldCeCtr0p1
  | stldCeJ2
  | stldMeIpad
  | stldMeOpad
  | stldMeZero
  | habs (src : AbsSrc) (pad : Nat)
  | capp
  | fuse (side : Side) (pad : Nat)
  | copy
  | hdrv
  | hfin
  | hext (dst : ExtDst)
  | ctag (blk : MaskBlk)
  | tagout (mode : TagMode)
deriving DecidableEq, Repr

end Sys2Proof
end

