-- ==== Sys2Proof/WellFormed.lean ====
section
/-! DEFINITION. Which terms of `Instr` are instructions of AEAD-SEQ (`spec/30_encoding.md` R80, R82). Every operand but
the pad count is an enumeration whose members are exactly the selectors R82 lists, so the pad is the one thing to check. -/

namespace Sys2Proof

/-- `PAD` is a 4-bit unsigned count: 0 to 15 (R80). -/
def padOk (pad : Nat) : Bool := pad < 16

/-- An instruction that has an encoding. -/
def Instr.wellFormed : Instr → Bool
  | .setkey => true
  | .enc => true
  | .dec => true
  | .clrkey => true
  | .keyldCe _ _ => true
  | .keyldMeXcbc => true
  | .keyldMeCbcmac => true
  | .keyldMeGhash => true
  | .stldCeCiv => true
  | .stldCeCtr0p1 => true
  | .stldCeJ2 => true
  | .stldMeIpad => true
  | .stldMeOpad => true
  | .stldMeZero => true
  | .habs _ pad => padOk pad
  | .capp => true
  | .fuse _ pad => padOk pad
  | .copy => true
  | .hdrv => true
  | .hfin => true
  | .hext _ => true
  | .ctag _ => true
  | .tagout _ => true

end Sys2Proof
end

