-- ==== Sys2Proof/Decode.lean ====
section
/-! DEFINITION. Decoding and encoding of the command word (`spec/30_encoding.md` R71) and the plan word (R80 to R83). The
two formats share words: a word is decoded in the format of the place it is fetched from (log 1). -/

namespace Sys2Proof

/-- The two instruction formats of R70: the command word and the plan word. -/
inductive Format where
  | cmdw | opw
deriving DecidableEq, Repr

/-- Why a word is no instruction, by name. -/
inductive Reject where
  /-- A command word with `COP` 0 or 5 to 15, or a bit of `[31:4]` set (R86). -/
  | reservedCommand
  /-- A plan word with `OPC` 0 or 12 to 15 (R83). -/
  | reservedOpcode
  /-- A plan word whose `SEL` R82 does not list for its opcode. -/
  | reservedSelector
  /-- A plan word with a must-be-zero field set (R83). -/
  | reservedBits
deriving DecidableEq, Repr

/-! The fields of a plan word. -/

/-- The fields of R80, as they lie in the word. -/
structure Fields where
  rsv : BitVec 17
  dir : BitVec 1
  hsel : BitVec 1
  pad : BitVec 4
  sel : BitVec 4
  eng : BitVec 1
  opc : BitVec 4
deriving DecidableEq, Repr

/-- R80: `[31:15]` reserved, `[14]` DIR, `[13]` HSEL, `[12:9]` PAD, `[8:5]` SEL, `[4]` ENG, `[3:0]` OPC. -/
def fieldsOf (w : Word) : Fields where
  rsv := w.extractLsb' 15 17
  dir := w.extractLsb' 14 1
  hsel := w.extractLsb' 13 1
  pad := w.extractLsb' 9 4
  sel := w.extractLsb' 5 4
  eng := w.extractLsb' 4 1
  opc := w.extractLsb' 0 4

/-- The word with the given fields (R80). -/
def Fields.word (f : Fields) : Word :=
  f.rsv ++ f.dir ++ f.hsel ++ f.pad ++ f.sel ++ f.eng ++ f.opc

/-! The selector tables of R82. -/

/-- `KEYLD` with `ENG = CE`. -/
def CeMode.code : CeMode → BitVec 4
  | .ecb => 0 | .cbc => 1 | .ctr => 2 | .gctr => 3

/-- `KEYLD` with `ENG = CE`, read. -/
def CeMode.ofCode (c : BitVec 4) : Option CeMode :=
  match c.toNat with
  | 0 => some .ecb | 1 => some .cbc | 2 => some .ctr | 3 => some .gctr | _ => none

/-- `HABS`. -/
def AbsSrc.code : AbsSrc → BitVec 4
  | .aad => 0 | .pin => 1 | .pout => 2 | .b0 => 3 | .a0 => 4 | .lenblk => 5 | .digs => 6 | .iv8 => 7

/-- `HABS`, read. -/
def AbsSrc.ofCode (c : BitVec 4) : Option AbsSrc :=
  match c.toNat with
  | 0 => some .aad | 1 => some .pin | 2 => some .pout | 3 => some .b0
  | 4 => some .a0 | 5 => some .lenblk | 6 => some .digs | 7 => some .iv8 | _ => none

/-- `HEXT`: 0 `TAGS`, 1 `DIGS`. -/
def ExtDst.code : ExtDst → BitVec 4
  | .tags => 0 | .digs => 1

/-- `HEXT`, read. -/
def ExtDst.ofCode (c : BitVec 4) : Option ExtDst :=
  match c.toNat with
  | 0 => some .tags | 1 => some .digs | _ => none

/-- `CTAG`: 0 `CTR0`, 1 `J1`. -/
def MaskBlk.code : MaskBlk → BitVec 4
  | .ctr0 => 0 | .j1 => 1

/-- `CTAG`, read. -/
def MaskBlk.ofCode (c : BitVec 4) : Option MaskBlk :=
  match c.toNat with
  | 0 => some .ctr0 | 1 => some .j1 | _ => none

/-- `DIR` of `KEYLD CE`: 0 encrypt, 1 decrypt (R80). -/
def Dir.bit : Dir → BitVec 1
  | .encrypt => 0 | .decrypt => 1

/-- `DIR` of `KEYLD CE`, read. -/
def Dir.ofBit (b : BitVec 1) : Dir := if b = 0 then .encrypt else .decrypt

/-- `HSEL` of `FUSE`: 0 the cipher's input, 1 its output (R80). -/
def Side.bit : Side → BitVec 1
  | .input => 0 | .output => 1

/-- `HSEL` of `FUSE`, read. -/
def Side.ofBit (b : BitVec 1) : Side := if b = 0 then .input else .output

/-- `DIR` of `TAGOUT`: 0 store, 1 compare (R80). -/
def TagMode.bit : TagMode → BitVec 1
  | .store => 0 | .cmp => 1

/-- `DIR` of `TAGOUT`, read. -/
def TagMode.ofBit (b : BitVec 1) : TagMode := if b = 0 then .store else .cmp

/-! Decoding. -/

/-- The instruction a legal selector names, or the name of the rejection. -/
def selected {α : Type} (o : Option α) (k : α → Instr) : Except Reject Instr :=
  match o with
  | some x => .ok (k x)
  | none => .error .reservedSelector

/-- `ok` when the must-be-zero test holds, else the rejection (R83). -/
def zeroed (ok : Bool) (r : Except Reject Instr) : Except Reject Instr :=
  if ok then r else .error .reservedBits

/-- `KEYLD` (R211, R212). -/
def decodeKeyld (f : Fields) : Except Reject Instr :=
  if f.eng = 0 then
    zeroed (f.pad = 0 ∧ f.hsel = 0) (selected (CeMode.ofCode f.sel) fun m => .keyldCe m (Dir.ofBit f.dir))
  else
    zeroed (f.pad = 0 ∧ f.hsel = 0 ∧ f.dir = 0)
      (match f.sel.toNat with
       | 2 => .ok .keyldMeXcbc
       | 3 => .ok .keyldMeCbcmac
       | 4 => .ok .keyldMeGhash
       | _ => .error .reservedSelector)

/-- `STLD` (R213, R214). -/
def decodeStld (f : Fields) : Except Reject Instr :=
  zeroed (f.pad = 0 ∧ f.hsel = 0 ∧ f.dir = 0)
    (if f.eng = 0 then
       match f.sel.toNat with
       | 0 => .ok .stldCeCiv
       | 1 => .ok .stldCeCtr0p1
       | 2 => .ok .stldCeJ2
       | _ => .error .reservedSelector
     else
       match f.sel.toNat with
       | 0 => .ok .stldMeIpad
       | 1 => .ok .stldMeOpad
       | 2 => .ok .stldMeZero
       | _ => .error .reservedSelector)

/-- An operation with no operand: `SEL` must be 0 (R82), every other field too (R83). -/
def decodePlain (f : Fields) (i : Instr) : Except Reject Instr :=
  zeroed (f.eng = 0 ∧ f.pad = 0 ∧ f.hsel = 0 ∧ f.dir = 0)
    (if f.sel = 0 then .ok i else .error .reservedSelector)

/-- The plan operation with the given fields (R81 to R83). -/
def decodeFields (f : Fields) : Except Reject Instr :=
  zeroed (f.rsv = 0)
    (match f.opc.toNat with
     | 1 => decodeKeyld f
     | 2 => decodeStld f
     | 3 => zeroed (f.eng = 0 ∧ f.hsel = 0 ∧ f.dir = 0)
              (selected (AbsSrc.ofCode f.sel) fun src => .habs src f.pad.toNat)
     | 4 => decodePlain f .capp
     | 5 => zeroed (f.eng = 0 ∧ f.dir = 0)
              (if f.sel = 0 then .ok (.fuse (Side.ofBit f.hsel) f.pad.toNat) else .error .reservedSelector)
     | 6 => decodePlain f .copy
     | 7 => decodePlain f .hdrv
     | 8 => decodePlain f .hfin
     | 9 => zeroed (f.eng = 0 ∧ f.pad = 0 ∧ f.hsel = 0 ∧ f.dir = 0)
              (selected (ExtDst.ofCode f.sel) fun dst => .hext dst)
     | 10 => zeroed (f.eng = 0 ∧ f.pad = 0 ∧ f.hsel = 0 ∧ f.dir = 0)
              (selected (MaskBlk.ofCode f.sel) fun blk => .ctag blk)
     | 11 => zeroed (f.eng = 0 ∧ f.pad = 0 ∧ f.hsel = 0)
              (if f.sel = 0 then .ok (.tagout (TagMode.ofBit f.dir)) else .error .reservedSelector)
     | _ => .error .reservedOpcode)

/-- A plan word (R80 to R83). -/
def decodePlan (w : Word) : Except Reject Instr := decodeFields (fieldsOf w)

/-- A command word (R71, R86): `COP` in bits 3 to 0, bits 31 to 4 zero. -/
def decodeCmd (w : Word) : Except Reject Instr :=
  match w.toNat with
  | 1 => .ok .setkey
  | 2 => .ok .enc
  | 3 => .ok .dec
  | 4 => .ok .clrkey
  | _ => .error .reservedCommand

/-- The instruction a word holds, in the format of the place it is fetched from (R70; log 1). -/
def decode (fmt : Format) (w : Word) : Except Reject Instr :=
  match fmt with
  | .cmdw => decodeCmd w
  | .opw => decodePlan w

/-! Encoding. -/

/-- The format an instruction is written in. -/
def Instr.format : Instr → Format
  | .setkey | .enc | .dec | .clrkey => .cmdw
  | .keyldCe _ _ | .keyldMeXcbc | .keyldMeCbcmac | .keyldMeGhash | .stldCeCiv | .stldCeCtr0p1 | .stldCeJ2
  | .stldMeIpad | .stldMeOpad | .stldMeZero | .habs _ _ | .capp | .fuse _ _ | .copy | .hdrv | .hfin | .hext _
  | .ctag _ | .tagout _ => .opw

/-- The fields with a given opcode, engine and selector, all other fields zero. -/
def mkFields (opc : BitVec 4) (eng : BitVec 1) (sel : BitVec 4) : Fields :=
  { rsv := 0, dir := 0, hsel := 0, pad := 0, sel := sel, eng := eng, opc := opc }

/-- The fields of a plan operation (R81, R82, R88). A command has none: the answer for it is a reserved word. -/
def Instr.fields : Instr → Fields
  | .setkey | .enc | .dec | .clrkey => mkFields 0 0 0
  | .keyldCe m d => { mkFields 1 0 m.code with dir := d.bit }
  | .keyldMeXcbc => mkFields 1 1 2
  | .keyldMeCbcmac => mkFields 1 1 3
  | .keyldMeGhash => mkFields 1 1 4
  | .stldCeCiv => mkFields 2 0 0
  | .stldCeCtr0p1 => mkFields 2 0 1
  | .stldCeJ2 => mkFields 2 0 2
  | .stldMeIpad => mkFields 2 1 0
  | .stldMeOpad => mkFields 2 1 1
  | .stldMeZero => mkFields 2 1 2
  | .habs src pad => { mkFields 3 0 src.code with pad := BitVec.ofNat 4 pad }
  | .capp => mkFields 4 0 0
  | .fuse side pad => { mkFields 5 0 0 with hsel := side.bit, pad := BitVec.ofNat 4 pad }
  | .copy => mkFields 6 0 0
  | .hdrv => mkFields 7 0 0
  | .hfin => mkFields 8 0 0
  | .hext dst => mkFields 9 0 dst.code
  | .ctag blk => mkFields 10 0 blk.code
  | .tagout mode => { mkFields 11 0 0 with dir := mode.bit }

/-- The command word of a command: its `COP`, all other bits zero (R71). A plan operation has none: the answer for it is the
reserved command word 0. -/
def Instr.cop : Instr → Word
  | .setkey => 1
  | .enc => 2
  | .dec => 3
  | .clrkey => 4
  | .keyldCe _ _ | .keyldMeXcbc | .keyldMeCbcmac | .keyldMeGhash | .stldCeCiv | .stldCeCtr0p1 | .stldCeJ2
  | .stldMeIpad | .stldMeOpad | .stldMeZero | .habs _ _ | .capp | .fuse _ _ | .copy | .hdrv | .hfin | .hext _
  | .ctag _ | .tagout _ => 0

/-- The word of a well-formed instruction: its command word (R71), or the packed fields of a plan operation (R80). -/
def encode (i : Instr) : Word :=
  match i.format with
  | .cmdw => i.cop
  | .opw => i.fields.word

/-- What the decoder reads from an opcode-table row's word, given without the place it was fetched from. Each row is one
32-bit word. The words 1 to 4 are legal in both formats (R71, R80); the host's `CMD` write is the one way a word enters the
machine from outside, so the command format is read first and the plan format where it is no command (log 1). -/
def decodeTableWord (nbits w : Nat) : Option Instr :=
  let word := BitVec.ofNat 32 (w % 2 ^ nbits)
  match decodeCmd word with
  | .ok i => some i
  | .error _ =>
    match decodePlan word with
    | .ok i => some i
    | .error _ => none

end Sys2Proof
end

