-- ==== Sys2Proof/Config.lean ====
section
/-! DEFINITION. What an implementation of AEAD-SEQ fixes, and the values the spec leaves free: the selectable modes
(`spec/30_encoding.md` R73 to R76), the OPEN capacities (`spec/00_scope.md` R7), the external primitives
(`spec/47_primitives.md` R253) and the free values. Every `opaque` constant here has no body: nothing can be proved of it
beyond its type. -/

namespace Sys2Proof

/-- `CFG[1:0]` (R73): codes 0 to 3 in this order. `gctr` selects GCM as a whole. -/
inductive CipherMode where
  | cbc | ctr | ccm | gctr
deriving DecidableEq, Repr

/-- `CFG[3:2]` (R74): codes 0 to 3 in this order. -/
inductive AuthMode where
  | hmacSha1 | hmacSha256 | xcbc | none
deriving DecidableEq, Repr

/-- `CFG[4]` (R75): 0 AES, 1 3DES. -/
inductive Family where
  | aes | tdes
deriving DecidableEq, Repr

/-- `CFG[7:5]` (R76): codes 0 to 4 in this order; 5 to 7 are reserved. -/
inductive Wrap where
  | none | rfc3686 | rfc4309 | rfc4106 | rfc4543
deriving DecidableEq, Repr

/-- The five byte-addressed buffer spaces (`10_state.md` R32). -/
inductive Space where
  | keyBuf | ivBuf | aadBuf | inBuf | outBuf
deriving DecidableEq, Repr

/-- The OPEN capacities, in bytes (R7). They are parameters of a build: State carries them, no step changes them, and every
statement holds for each of their values (log 15). -/
structure Caps where
  keyCap : Nat
  aadCap : Nat
  bufCap : Nat
deriving DecidableEq, Repr

/-- The bounds R7 puts on the capacities. -/
abbrev Caps.Legal (c : Caps) : Prop :=
  100 ≤ c.keyCap ∧ 20 ≤ c.aadCap ∧ c.aadCap ≤ 2 ^ 32 - 1 ∧ 64 ≤ c.bufCap ∧ c.bufCap ≤ 2 ^ 32 - 1

namespace Config

/-- The default capacities of R7: 256, 65536 and 65536 + 32. -/
def defaultCaps : Caps := { keyCap := 256, aadCap := 65536, bufCap := 65536 + 32 }

/-- AES under a key, as a permutation of the 16-byte blocks: R253's `AesEnc` and, inverse to it, `AesDec`. The spec takes
the block function as a parameter (R43, U11) whose one required law is `AesDec(k, AesEnc(k, b)) = b` (log 5). -/
opaque aes : List Byte → Equiv.Perm Block

/-- 3DES under a 24-byte key, as a permutation of the 8-byte blocks: R253's `TdesEnc` and `TdesDec` (log 5). -/
opaque tdes : List Byte → Equiv.Perm (Vector Byte 8)

/-- R253's `Sha1`, a parameter of the model (log 5). -/
opaque sha1 : List Byte → Vector Byte 20

/-- R253's `Sha256`, a parameter of the model (log 5). -/
opaque sha256 : List Byte → Vector Byte 32

/-- What a `block_cipher_apply` call outside its contract would answer (ECB or CBC over a partial block, 3DES in a counter
mode): no run makes such a call, and the spec gives it no value (log 11). -/
opaque cipherOutside : Family → List Byte → CeMode → Dir → Block → List Byte → List Byte

/-- The byte an offset of `IVBUF`, `AADBUF`, `INBUF` or `OUTBUF` holds after the `n`-th reset: any value, fixed at the reset
(`93_implementation_defined.md` U7; log 4). -/
opaque resetByte : Nat → Space → Nat → Byte

/-- What a host read returns where the spec says "unspecified" (`20_memory.md` R63, U3): any value, chosen afresh at each
read, so applied to a counter that every such read advances (log 9). -/
opaque busyRead : Nat → Word

end Config

end Sys2Proof
end

