-- ==== Sys2Proof/Machine/State.lean ====
section
/-! DEFINITION. The state of AEAD-SEQ as plain data (`spec/10_state.md`), its reset value (R42, R310), and the reasons a
step can stop. -/

namespace Sys2Proof.Machine

open Sys2Proof

/-- The nine errors with which a command can complete (`30_encoding.md` R79, `60_exceptions.md` R280), in code order 1 to 9.
The codes 10 to 15 are never produced (U15). -/
inductive CmdError where
  | invalidKeyLength
  | keyDerivationFailed
  | invalidLength
  | invalidIvFormat
  | invalidAssociatedDataLength
  | lengthOverflow
  | authenticationFailed
  | engineError
  | illegalCommand
deriving DecidableEq, Repr

/-- The five flags of `STATUS` (R23, R78). Bits 31 to 5 always read 0 and are not stored. -/
structure Status where
  busy : Bool
  done : Bool
  err : Bool
  ctxv : Bool
  sp : Bool
deriving DecidableEq, Repr

/-- `PHASE` (R33): 0 `IDLE`, 1 `SETUP`, 2 `EXEC`. -/
inductive Phase where
  | idle | setup | exec
deriving DecidableEq, Repr

/-- `PEND` (R33): 0 none, the opcode 1 to 4 of the accepted command, 7 a reserved command word. -/
inductive Pend where
  | none | setkey | enc | dec | clrkey | illegal
deriving DecidableEq, Repr

/-- The running state of a MAC: the message absorbed so far and the finalized flag (`47_primitives.md` R257). -/
structure MacState where
  msg : List Byte
  fin : Bool
deriving DecidableEq, Repr

/-- The algorithms of the MAC engine (R37, R256): codes 0 to 4 in this order. -/
inductive MacAlg where
  | sha1 | sha256 | xcbc | cbcmac | ghash
deriving DecidableEq, Repr

/-- `CTX.AUTHMAT`, the tagged variant of R31. -/
inductive AuthMat where
  | none
  | hmac (ipad opad : MacState)
  | xcbc (k1 k2 k3 : Block)
deriving DecidableEq, Repr

/-- The session context `CTX.*` (R30). -/
structure Ctx where
  cipherMode : CipherMode
  authMode : AuthMode
  family : Family
  wrap : Wrap
  tagLen : BitVec 6
  encKey : Vector Byte 32
  encKeyLen : BitVec 6
  nonce : Vector Byte 4
  nonceLen : BitVec 3
  authMat : AuthMat
deriving DecidableEq, Repr

/-- The frame registers `F.*` (R35). -/
structure Frame where
  civ : Block
  ivx : Block
  b0 : Block
  a0 : Block
  ctr0 : Block
  j1 : Block
  j2 : Block
  len : Block
  h : Block
deriving DecidableEq, Repr

/-- The cipher-engine registers `CE.*` (R36). -/
structure CipherEngine where
  fam : Family
  key : Vector Byte 32
  keyLen : BitVec 6
  mode : CeMode
  dir : Dir
  iv : Block
deriving DecidableEq, Repr

/-- The MAC-engine registers `ME.*` (R37). `key` is the key material as one byte string of up to 48 bytes: `K1`, `K2`, `K3`
in order for XCBC (log 22). -/
structure MacEngine where
  alg : MacAlg
  key : List Byte
  st : MacState
deriving DecidableEq, Repr

/-- The five byte spaces (R32, `20_memory.md` R50), each a list of (offset, byte) cells in the canonical form of
`Machine/Memory.lean`. -/
structure Buffers where
  key : List Host.Cell
  iv : List Host.Cell
  aad : List Host.Cell
  inp : List Host.Cell
  out : List Host.Cell
deriving DecidableEq, Repr

/-- The host's operations at the interface (R51, `40_host_commands.md` R100, R101). `writePlan` is the write the host may
attempt on the read-only space `PLAN`. -/
inductive HostOp where
  | readReg (n : Nat)
  | writeReg (n : Nat) (v : Word)
  | readByte (sp : Space) (off : Nat)
  | writeByte (sp : Space) (off : Nat) (b : Byte)
  | readPlan (i : Nat)
  | writePlan (i : Nat) (w : Word)
deriving DecidableEq, Repr

/-- What can happen next (`00_scope.md` R11, U12): a host operation, a `Reset` by the platform (R310), or a turn of the
sequencer. -/
inductive Event where
  | host (op : HostOp)
  | reset
  | sequencer
deriving DecidableEq, Repr

/-- The state of the block. The last seven fields are the model's own: parameters, inputs, the host port's data and the
counters of the free values (INVENTORY.md). -/
structure State where
  status : Status
  errcode : Option CmdError
  cfg : Word
  keylen : Word
  authkeylen : Word
  aadlen : Word
  inlen : Word
  outlen : Word
  pp : BitVec 5
  plen : BitVec 5
  phase : Phase
  pend : Pend
  ctx : Ctx
  mem : Buffers
  dir : Dir
  cryptlen : Word
  aadeff : Word
  a0len : BitVec 3
  outw : Bool
  frame : Frame
  ce : CipherEngine
  me : MacEngine
  plan : Vector Word 16
  tags : Vector Byte 32
  digs : Vector Byte 32
  diglen : BitVec 6
  caps : Caps
  agenda : List Event
  draws : List Bool
  rdata : Word
  freeIx : Nat
  resets : Nat
  spOld : Bool
deriving DecidableEq, Repr

/-- A register of `n` bytes, all zero. -/
def zeroBytes (n : Nat) : Vector Byte n := ⟨⟨List.replicate n 0⟩, by simp⟩

/-- The sixteen plan words, all zero. -/
def zeroPlan : Vector Word 16 := ⟨⟨List.replicate 16 0⟩, by simp⟩

/-- The empty `MacState` (R42, R258). -/
def emptyMac : MacState := { msg := [], fin := false }

/-- `CTX.*` with every field zero and `AUTHMAT = None` (R42, R110). -/
def zeroCtx : Ctx :=
  { cipherMode := .cbc, authMode := .hmacSha1, family := .aes, wrap := .none, tagLen := 0, encKey := zeroBytes 32,
    encKeyLen := 0, nonce := zeroBytes 4, nonceLen := 0, authMat := .none }

/-- `F.*`: sixteen zero bytes each (R42). -/
def zeroFrame : Frame :=
  { civ := zeroBytes 16, ivx := zeroBytes 16, b0 := zeroBytes 16, a0 := zeroBytes 16, ctr0 := zeroBytes 16,
    j1 := zeroBytes 16, j2 := zeroBytes 16, len := zeroBytes 16, h := zeroBytes 16 }

/-- `CE.*`: zeros (R42). -/
def zeroCe : CipherEngine :=
  { fam := .aes, key := zeroBytes 32, keyLen := 0, mode := .ecb, dir := .encrypt, iv := zeroBytes 16 }

/-- `ME.*`: zeros, the empty state of the algorithm of code 0 (R42). -/
def zeroMe : MacEngine := { alg := .sha1, key := [], st := emptyMac }

/-- `STATUS` after reset (R42). -/
def zeroStatus : Status := { busy := false, done := false, err := false, ctxv := false, sp := false }

/-- The machine right after reset (R42, R310): every register 0, no context, nothing written in any buffer space. The model's
own fields hold the values INVENTORY.md lists. -/
def State.reset : State :=
  { status := zeroStatus, errcode := none, cfg := 0, keylen := 0, authkeylen := 0, aadlen := 0, inlen := 0, outlen := 0,
    pp := 0, plen := 0, phase := .idle, pend := .none, ctx := zeroCtx,
    mem := { key := [], iv := [], aad := [], inp := [], out := [] },
    dir := .encrypt, cryptlen := 0, aadeff := 0, a0len := 0, outw := false, frame := zeroFrame, ce := zeroCe, me := zeroMe,
    plan := zeroPlan, tags := zeroBytes 32, digs := zeroBytes 32, diglen := 0,
    caps := Config.defaultCaps, agenda := [], draws := [], rdata := 0, freeIx := 0, resets := 0, spOld := false }

/-- Why a step can stop. No instruction's meaning stops; see NOTES.md, Stops. -/
inductive Fault where
  /-- Raised by the sequencer's turn when `BUSY = 1` and `PHASE`, `PEND` enable no step (R11, R103, R108 enable one only in
  `SETUP` with a command pending, or in `EXEC`). No run from reset reaches such a state. Safe: the model stops where the
  spec has no transition (log 18). -/
  | deadPhase
deriving DecidableEq, Repr

/-- Why an instruction has no meaning in the model. -/
inductive Refusal where
  /-- Raised by an arm of `exec` whose instruction is not modelled; no arm is (every row of the table has its meaning).
  Safe: nothing is claimed of such an instruction. -/
  | notModelled (mnemonic : String)
deriving DecidableEq, Repr

end Sys2Proof.Machine
end

