-- ==== Sys2Proof/Machine/Flags.lean ====
section
/-! DEFINITION. The flags and coded words: `STATUS` (`spec/30_encoding.md` R78), `ERRCODE` (R79), and who sets and clears each
flag (`spec/10_state.md` R40). -/

namespace Sys2Proof.Machine

open Sys2Proof

/-- The word a flag contributes at a bit position. -/
def flagBit (b : Bool) (i : Nat) : Word := if b then BitVec.ofNat 32 (2 ^ i) else 0

/-- `STATUS` as read: `[0]` BUSY, `[1]` DONE, `[2]` ERR, `[3]` CTXV, `[4]` SP, the rest 0 (R78). -/
def Status.word (st : Status) : Word :=
  flagBit st.busy 0 ||| flagBit st.done 1 ||| flagBit st.err 2 ||| flagBit st.ctxv 3 ||| flagBit st.sp 4

/-- The code of an error (R79). -/
def CmdError.code : CmdError → Nat
  | .invalidKeyLength => 1
  | .keyDerivationFailed => 2
  | .invalidLength => 3
  | .invalidIvFormat => 4
  | .invalidAssociatedDataLength => 5
  | .lengthOverflow => 6
  | .authenticationFailed => 7
  | .engineError => 8
  | .illegalCommand => 9

/-- `ERRCODE` as read: 0 for success, else the code in bits 3 to 0 (R24, R79). -/
def errWord : Option CmdError → Word
  | none => 0
  | some e => BitVec.ofNat 32 e.code

/-- Acceptance of a command (R40, `40_host_commands.md` R102): BUSY set; DONE, ERR and SP cleared; CTXV kept. -/
def Status.accepted (st : Status) : Status := { st with busy := true, done := false, err := false, sp := false }

/-- Successful completion (R109): BUSY cleared, DONE set, ERR cleared. -/
def Status.completed (st : Status) : Status := { st with busy := false, done := true, err := false }

/-- Completion with an error (R290): BUSY cleared, DONE and ERR set. -/
def Status.failed (st : Status) : Status := { st with busy := false, done := true, err := true }

/-- The register `PEND` as its 3-bit code (`10_state.md` R33). -/
def Pend.code : Pend → BitVec 3
  | .none => 0
  | .setkey => 1
  | .enc => 2
  | .dec => 3
  | .clrkey => 4
  | .illegal => 7

/-- The register `PHASE` as its 2-bit code (R33). -/
def Phase.code : Phase → BitVec 2
  | .idle => 0
  | .setup => 1
  | .exec => 2

end Sys2Proof.Machine
end

