-- ==== Sys2Proof/Machine/Bytes.lean ====
section
/-! DEFINITION. Byte strings (`spec/00_scope.md` R9): big-endian encoding, zero padding, exclusive or, cutting into blocks. -/

namespace Sys2Proof.Machine

open Sys2Proof

/-- `0^n` (R9). -/
def zeros (n : Nat) : List Byte := List.replicate n 0

/-- `be_n(v)`, the `n`-byte big-endian encoding of `v` (R9); of a `v` that does not fit, the low `n` bytes. -/
def be : (n : Nat) → (v : Nat) → List Byte
  | 0, _ => []
  | n + 1, v => BitVec.ofNat 8 (v / 256 ^ n) :: be n v

/-- The unsigned integer a byte string encodes, big-endian (R9, `20_memory.md` R53). -/
def beVal (l : List Byte) : Nat := l.foldl (fun a b => a * 256 + b.toNat) 0

/-- `pad16(n)`: the number of zero bytes that bring a length to the next multiple of 16 (R9). -/
def pad16 (n : Nat) : Nat := (16 - n % 16) % 16

/-- `X xor Y`, bytewise (R9). -/
def xorBytes (x y : List Byte) : List Byte := List.zipWith (· ^^^ ·) x y

/-- `X[a..b)` (R9). -/
def slice (l : List Byte) (a b : Nat) : List Byte := (l.drop a).take (b - a)

/-- The list cut or filled with `d` to exactly `n` entries. -/
def fitTo {α : Type} (n : Nat) (d : α) (l : List α) : Vector α n :=
  ⟨⟨(l ++ List.replicate n d).take n⟩, by simp⟩

/-- An `n`-byte register holding the string, zero-filled at its end. -/
def toReg (n : Nat) (l : List Byte) : Vector Byte n := fitTo n 0 l

/-- A 16-byte block holding the string, zero-filled at its end. -/
def toBlock (l : List Byte) : Block := toReg 16 l

/-- The string cut into blocks of `bs` bytes, the last one possibly shorter (`47_primitives.md` R264, R266, R269). -/
def blocksOf (bs : Nat) (l : List Byte) : List (List Byte) :=
  (List.range ((l.length + bs - 1) / bs)).map fun i => (l.drop (i * bs)).take bs

/-- `K0 xor c^64` with `c` repeated (`41_key_schedule.md` R128). -/
def xorRepeat (c : Byte) (l : List Byte) : List Byte := l.map (· ^^^ c)

end Sys2Proof.Machine
end

