-- ==== Sys2Proof/Machine/Memory.lean ====
section
/-! DEFINITION. The buffer spaces (`spec/20_memory.md` R50 to R52): cells in canonical form, reads and writes of ranges. -/

namespace Sys2Proof.Machine

open Sys2Proof

/-- What the spec states for a byte nothing has written: zero in `KEYBUF` (R42); no value in the data buffers (U7). -/
def knownUnlisted : Space → Option Byte
  | .keyBuf => some 0
  | .ivBuf => none
  | .aadBuf => none
  | .inBuf => none
  | .outBuf => none

/-- What an unlisted offset reads as, after the `n`-th reset: the stated value, else the free byte of U7 (log 4). -/
def unlistedByte (n : Nat) (sp : Space) (off : Nat) : Byte :=
  match knownUnlisted sp with
  | some b => b
  | none => Config.resetByte n sp off

/-- The byte listed at an offset, if any. -/
def Memory.get? (m : List Host.Cell) (a : Nat) : Option Byte := (m.find? fun c => c.1 == a).map (·.2)

/-- Consecutive cells from an offset. -/
def cellsAt (a : Nat) : List Byte → List Host.Cell
  | [] => []
  | b :: bs => (a, b) :: cellsAt (a + 1) bs

/-- The cells after writing a string at an offset: the string's bytes replace what stood there; a byte equal to what the
space states for an unlisted offset is not listed. -/
def Memory.store (dflt : Option Byte) (m : List Host.Cell) (a : Nat) (bs : List Byte) : List Host.Cell :=
  m.filter (fun c => c.1 < a) ++ (cellsAt a bs).filter (fun c => some c.2 ≠ dflt)
    ++ m.filter (fun c => a + bs.length ≤ c.1)

/-- Offsets strictly rising. -/
def rising : List Host.Cell → Bool
  | [] => true
  | [_] => true
  | c :: d :: m => c.1 < d.1 && rising (d :: m)

/-- The canonical form of a space: offsets strictly rising and below the size, no cell equal to what an unlisted offset is
stated to read as. -/
def Memory.wf (dflt : Option Byte) (size : Nat) (m : List Host.Cell) : Bool :=
  rising m && m.all fun c => c.1 < size && some c.2 ≠ dflt

/-- The cells of a space. -/
def Buffers.cells (m : Buffers) : Space → List Host.Cell
  | .keyBuf => m.key
  | .ivBuf => m.iv
  | .aadBuf => m.aad
  | .inBuf => m.inp
  | .outBuf => m.out

/-- The buffers with the cells of one space replaced. -/
def Buffers.set (m : Buffers) (sp : Space) (c : List Host.Cell) : Buffers :=
  match sp with
  | .keyBuf => { m with key := c }
  | .ivBuf => { m with iv := c }
  | .aadBuf => { m with aad := c }
  | .inBuf => { m with inp := c }
  | .outBuf => { m with out := c }

/-- The size of a space in bytes (R50). -/
def capSize (c : Caps) : Space → Nat
  | .keyBuf => c.keyCap
  | .ivBuf => 16
  | .aadBuf => c.aadCap
  | .inBuf => c.bufCap
  | .outBuf => c.bufCap

/-- Byte `off` of a space; an offset at or beyond the size names no storage and reads 0 (R52; log 16). -/
def State.readByte (s : State) (sp : Space) (off : Nat) : Byte :=
  if off < capSize s.caps sp then
    match Memory.get? (s.mem.cells sp) off with
    | some b => b
    | none => unlistedByte s.resets sp off
  else 0

/-- `SPACE[a..a+n)` (`00_scope.md` R10, `MemRead`). -/
def State.readRange (s : State) (sp : Space) (a n : Nat) : List Byte :=
  (List.range n).map fun i => s.readByte sp (a + i)

/-- Replaces the bytes of a space from offset `a` by a string (R10, `MemWrite`); bytes at or beyond the size are discarded
(R52; log 16). -/
def State.writeRange (s : State) (sp : Space) (a : Nat) (bs : List Byte) : State :=
  let cells := Memory.store (knownUnlisted sp) (s.mem.cells sp) a (bs.take (capSize s.caps sp - a))
  { s with mem := s.mem.set sp cells }

/-- `KEYBUF[0..KEY_CAP) <- 0^KEY_CAP` (`41_key_schedule.md` R136): a space of zeros lists nothing. -/
def State.zeroKeyBuf (s : State) : State := { s with mem := s.mem.set .keyBuf [] }

/-- Every space is in canonical form. -/
def State.memWf (s : State) : Bool :=
  Memory.wf (knownUnlisted .keyBuf) (capSize s.caps .keyBuf) s.mem.key
    && Memory.wf (knownUnlisted .ivBuf) (capSize s.caps .ivBuf) s.mem.iv
    && Memory.wf (knownUnlisted .aadBuf) (capSize s.caps .aadBuf) s.mem.aad
    && Memory.wf (knownUnlisted .inBuf) (capSize s.caps .inBuf) s.mem.inp
    && Memory.wf (knownUnlisted .outBuf) (capSize s.caps .outBuf) s.mem.out

end Sys2Proof.Machine
end

