-- ==== Sys2Proof/Machine/Ops.lean ====
section
/-! DEFINITION. The named operations every meaning is built from: the scrub (`spec/10_state.md` R34), completion
(`spec/40_host_commands.md` R109), raising an error (`spec/60_exceptions.md` R290), the plan pointer (R108) and the failure
draws (`spec/47_primitives.md` R252). There is no return from an error: the block is idle again (R290). -/

namespace Sys2Proof.Machine

open Sys2Proof

/-- An outcome of the machine. -/
abbrev Out := Host.Outcome State Fault Refusal

/-- `Scrub()` (R34, R109): every request-scoped register but `PLAN`, `PP`, `PLEN` and `STATUS.SP` becomes zero. -/
def State.scrub (s : State) : State :=
  { s with dir := .encrypt, cryptlen := 0, aadeff := 0, a0len := 0, outw := false, frame := zeroFrame, ce := zeroCe,
           me := zeroMe, tags := zeroBytes 32, digs := zeroBytes 32, diglen := 0 }

/-- `complete(success)` (R109). -/
def State.complete (s : State) : State :=
  { s.scrub with status := s.status.completed, errcode := none, phase := .idle, pend := .none }

/-- `OUTBUF[0..CRYPTLEN) <- 0^CRYPTLEN` (R244, R292). -/
def State.zeroOutput (s : State) : State := s.writeRange .outBuf 0 (zeros s.cryptlen.toNat)

/-- The output as an error leaves it: zeroed when a payload-writing operation of this request has started (R290, R292). -/
def State.zeroIfWritten (s : State) : State :=
  if s.phase = .exec ∧ s.outw = true then s.zeroOutput else s

/-- `raise E` (R290): the one way an error ends a command. -/
def State.raise (s : State) (e : CmdError) : State :=
  { s.zeroIfWritten.scrub with
      outlen := 0, errcode := some e, status := s.status.failed, phase := .idle, pend := .none }

/-- What follows a successful `Exec` in the operation step (R108): `PP <- PP + 1`, and completion when `PP = PLEN`. -/
def State.advance (s : State) : State :=
  if s.pp + 1 = s.plen then { s with pp := s.pp + 1 }.complete else { s with pp := s.pp + 1 }

/-- The next failure draw: the environment's next answer, `false` where it has supplied none (R252, D41; log 7). -/
def State.draw (s : State) : Bool := s.draws.headD false

/-- The state after a draw. -/
def State.drawn (s : State) : State := { s with draws := s.draws.tail }

/-- A primitive call of an operation step (R252): on a true draw `raise EngineError`, else go on. -/
def State.primitiveCall (s : State) (k : State → State) : State :=
  if s.draw then s.drawn.raise .engineError else k s.drawn

/-- An operation whose preconditions hold goes on; one whose preconditions fail raises `IllegalCommand` (R210; log 13). -/
def State.require (s : State) (pre : Bool) (k : State → State) : State :=
  if pre then k s else s.raise .illegalCommand

/-- The plan words executed before the current one in this request: `PLAN[0..PP)`, since steps run in plan order from 0
(`20_memory.md` R60, R65; log 12). -/
def State.executed (s : State) : List Word := s.plan.toList.take s.pp.toNat

/-- A preceding step of this request executed the given operation (the "preceding" preconditions of R212, R223, R240). -/
def State.hasRun (s : State) (i : Instr) : Bool := s.executed.contains (encode i)

/-- The valid bytes of `CTX.ENCKEY`: `CTX.ENCKEY[0..CTX.ENCKEYLEN)` (`10_state.md` R30). -/
def Ctx.keyBytes (c : Ctx) : List Byte := c.encKey.toList.take c.encKeyLen.toNat

/-- The valid bytes of `CE.KEY` (R36). -/
def CipherEngine.keyBytes (c : CipherEngine) : List Byte := c.key.toList.take c.keyLen.toNat

end Sys2Proof.Machine
end

