-- ==== Sys2Proof/Machine/Primitives.lean ====
section
/-! DEFINITION. The external primitives and the modes built on them (`spec/47_primitives.md`): the block functions are the
uninterpreted constants of Config (R253; log 5); the modes, the MACs and the field multiplication follow R263 to R270. -/

namespace Sys2Proof.Machine

open Sys2Proof

/-! Block functions (R253). -/

/-- `AesEnc(k, b)`. -/
def aesEnc (key : List Byte) (b : Block) : Block := Config.aes key b

/-- `AesDec(k, b)`, the inverse. -/
def aesDec (key : List Byte) (b : Block) : Block := (Config.aes key).symm b

/-- `TdesEnc(k, b)`. -/
def tdesEnc (key : List Byte) (b : Vector Byte 8) : Vector Byte 8 := Config.tdes key b

/-- `TdesDec(k, b)`, the inverse. -/
def tdesDec (key : List Byte) (b : Vector Byte 8) : Vector Byte 8 := (Config.tdes key).symm b

/-- `Sha1(m)`. -/
def sha1 (m : List Byte) : List Byte := (Config.sha1 m).toList

/-- `Sha256(m)`. -/
def sha256 (m : List Byte) : List Byte := (Config.sha256 m).toList

/-- `CBLOCK(fam)`, the block size in bytes (`00_scope.md` R7). -/
def cblock : Family → Nat
  | .aes => 16
  | .tdes => 8

/-- `BlockEnc(fam, k, b)` on a block of `CBLOCK(fam)` bytes (R253). -/
def blockEnc (fam : Family) (key b : List Byte) : List Byte :=
  match fam with
  | .aes => (aesEnc key (toBlock b)).toList
  | .tdes => (tdesEnc key (toReg 8 b)).toList

/-- `BlockDec(fam, k, b)` (R253). -/
def blockDec (fam : Family) (key b : List Byte) : List Byte :=
  match fam with
  | .aes => (aesDec key (toBlock b)).toList
  | .tdes => (tdesDec key (toReg 8 b)).toList

/-! Cipher modes (R263 to R267). -/

/-- ECB (R263). -/
def ecbApply (fam : Family) (key : List Byte) (dir : Dir) (blocks : List (List Byte)) : List (List Byte) :=
  match dir with
  | .encrypt => blocks.map (blockEnc fam key)
  | .decrypt => blocks.map (blockDec fam key)

/-- CBC encryption (R264): `C_i = BlockEnc(P_i xor C_(i-1))`. -/
def cbcEnc (fam : Family) (key : List Byte) : (prev : List Byte) → List (List Byte) → List (List Byte)
  | _, [] => []
  | prev, p :: ps =>
    let c := blockEnc fam key (xorBytes p prev)
    c :: cbcEnc fam key c ps

/-- CBC decryption (R264): `P_i = BlockDec(C_i) xor C_(i-1)`. -/
def cbcDec (fam : Family) (key : List Byte) : (prev : List Byte) → List (List Byte) → List (List Byte)
  | _, [] => []
  | prev, c :: cs => xorBytes (blockDec fam key c) prev :: cbcDec fam key c cs

/-- `T + 1 mod 2^128`, the block as a big-endian integer (R266). -/
def inc128 (t : Block) : Block := toBlock (be 16 ((beVal t.toList + 1) % 2 ^ 128))

/-- `T[0..12) || be_4((int(T[12..16)) + 1) mod 2^32)` (R267). -/
def inc32 (t : Block) : Block :=
  toBlock (t.toList.take 12 ++ be 4 ((beVal (t.toList.drop 12) + 1) % 2 ^ 32))

/-- Counter mode over AES with a given increment (R266, R267): `X_i xor AesEnc(key, T_i)[0..len(X_i))`. -/
def ctrApply (inc : Block → Block) (key : List Byte) : Block → List (List Byte) → List (List Byte)
  | _, [] => []
  | t, x :: xs => xorBytes x (aesEnc key t).toList :: ctrApply inc key (inc t) xs

/-- The string cut or zero-filled to `n` bytes: a primitive's output has the length of its input (R250). -/
def ofLength (n : Nat) (l : List Byte) : List Byte := (l ++ zeros n).take n

/-- A call of the cipher primitive outside its contract: a free value of the input's length (log 11). -/
def outsideContract (fam : Family) (key : List Byte) (mode : CeMode) (dir : Dir) (iv : Block) (inp : List Byte) :
    List Byte :=
  ofLength inp.length (Config.cipherOutside fam key mode dir iv inp)

/-- `BlockCipherApply(fam, key, mode, dir, iv, in)` (R255). -/
def blockCipherApply (fam : Family) (key : List Byte) (mode : CeMode) (dir : Dir) (iv : Block) (inp : List Byte) :
    List Byte :=
  match mode with
  | .ecb =>
    if inp.length % cblock fam = 0 then (ecbApply fam key dir (blocksOf (cblock fam) inp)).flatten
    else outsideContract fam key mode dir iv inp
  | .cbc =>
    if inp.length % cblock fam = 0 then
      (match dir with
       | .encrypt => cbcEnc fam key (iv.toList.take (cblock fam)) (blocksOf (cblock fam) inp)
       | .decrypt => cbcDec fam key (iv.toList.take (cblock fam)) (blocksOf (cblock fam) inp)).flatten
    else outsideContract fam key mode dir iv inp
  | .ctr =>
    match fam with
    | .aes => (ctrApply inc128 key iv (blocksOf 16 inp)).flatten
    | .tdes => outsideContract fam key mode dir iv inp
  | .gctr =>
    match fam with
    | .aes => (ctrApply inc32 key iv (blocksOf 16 inp)).flatten
    | .tdes => outsideContract fam key mode dir iv inp

/-! MACs (R257 to R261, R268 to R270). -/

/-- `MacInit(alg)` (R258), the same for every algorithm. -/
def macInit (_alg : MacAlg) : MacState := { msg := [], fin := false }

/-- `MacAbsorb(st, data)` (R259). -/
def macAbsorb (st : MacState) (data : List Byte) : MacState := { st with msg := st.msg ++ data }

/-- `MacFinalize(st)` (R260). -/
def macFinalize (st : MacState) : MacState := { st with fin := true }

/-- The chaining of CBC-MAC and XCBC: `X_(i+1) = AesEnc(key, X_i xor B_i)` (R268, R269). -/
def cbcChain (key : List Byte) (x : Block) (blocks : List (List Byte)) : Block :=
  blocks.foldl (fun x b => aesEnc key (toBlock (xorBytes x.toList b))) x

/-- `CbcMac(key, msg)` (R268). -/
def cbcMac (key msg : List Byte) : Block := cbcChain key (zeroBytes 16) (blocksOf 16 msg)

/-- `Xcbc(K1, K2, K3, msg)` (R269). -/
def xcbcMac (k1 k2 k3 msg : List Byte) : Block :=
  let blocks := blocksOf 16 msg
  let e := cbcChain k1 (zeroBytes 16) blocks.dropLast
  let m := blocks.getLast?.getD []
  if m.length = 16 then aesEnc k1 (toBlock (xorBytes (xorBytes m e.toList) k2))
  else aesEnc k1 (toBlock (xorBytes (xorBytes (ofLength 16 (m ++ [0x80])) e.toList) k3))

/-- A block as a bit vector whose most significant bit is the first bit of byte 0, the coefficient of `x^0` (R270). -/
def blockBits (b : Block) : BitVec 128 := BitVec.ofNat 128 (beVal b.toList)

/-- The block with the given bits. -/
def bitsBlock (v : BitVec 128) : Block := toBlock (be 16 v.toNat)

/-- Multiplication by `x` modulo `x^128 + x^7 + x^2 + x + 1` (R270). -/
def mulX (v : BitVec 128) : BitVec 128 :=
  if v.getLsbD 0 then (v >>> 1) ^^^ (0xe1#128 <<< 120) else v >>> 1

/-- `z + x * y`, the coefficients of `x` taken from `x^0` on, `n` of them left (R270). -/
def gfMulAux (x : BitVec 128) : (n : Nat) → (y z : BitVec 128) → BitVec 128
  | 0, _, z => z
  | n + 1, y, z => gfMulAux x n (mulX y) (if x.getLsbD n then z ^^^ y else z)

/-- `GfMul(x, y)` (R253, R270; log 6). -/
def gfMul (x y : Block) : Block := bitsBlock (gfMulAux (blockBits x) 128 (blockBits y) 0)

/-- `Ghash(H, msg)` (R270). -/
def ghash (h : Block) (msg : List Byte) : Block :=
  (blocksOf 16 msg).foldl (fun y x => gfMul (toBlock (xorBytes y.toList x)) h) (zeroBytes 16)

/-- `MacDigest(alg, key, st)` (R261), `DLEN(alg)` bytes. For XCBC the key is `K1 || K2 || K3`. -/
def macDigest (alg : MacAlg) (key : List Byte) (st : MacState) : List Byte :=
  match alg with
  | .sha1 => sha1 st.msg
  | .sha256 => sha256 st.msg
  | .xcbc => (xcbcMac (slice key 0 16) (slice key 16 32) (slice key 32 48) st.msg).toList
  | .cbcmac => (cbcMac key st.msg).toList
  | .ghash => (ghash (toBlock key) st.msg).toList

/-- What `MacDigest` requires of the state (R261, `45_plan_ops.md` R222; log 14). -/
def macDigestOk (alg : MacAlg) (st : MacState) : Bool :=
  match alg with
  | .sha1 => st.fin
  | .sha256 => st.fin
  | .xcbc => st.fin
  | .cbcmac => !st.fin && st.msg.length % 16 = 0
  | .ghash => !st.fin && st.msg.length % 16 = 0

/-- `HashAlg(AUTH_MODE)` (`45_plan_ops.md` R214), defined for the two HMAC modes. -/
def hashAlg : AuthMode → Option MacAlg
  | .hmacSha1 => some .sha1
  | .hmacSha256 => some .sha256
  | .xcbc => none
  | .none => none

/-- `Hash(alg, m)` (R262): the complete digest; used with the two hashes only. -/
def hashDigest (alg : MacAlg) (m : List Byte) : List Byte := macDigest alg [] (macFinalize (macAbsorb (macInit alg) m))

end Sys2Proof.Machine
end

