-- ==== Sys2Proof/Machine/Operands.lean ====
section
/-! DEFINITION. The operands of the plan operations: the ranges a selector names (`spec/45_plan_ops.md` R215,
`spec/20_memory.md` R59) and the blocks a load or a tag mask takes. -/

namespace Sys2Proof.Machine

open Sys2Proof

/-- `INBUF[0..CRYPTLEN)`, the payload as received (R59). -/
def State.payloadIn (s : State) : List Byte := s.readRange .inBuf 0 s.cryptlen.toNat

/-- `OUTBUF[0..CRYPTLEN)`, the payload as produced (R59). -/
def State.payloadOut (s : State) : List Byte := s.readRange .outBuf 0 s.cryptlen.toNat

/-- `INBUF[CRYPTLEN..CRYPTLEN+CTX.TAGLEN)`, the received tag (R59, R240). -/
def State.receivedTag (s : State) : List Byte := s.readRange .inBuf s.cryptlen.toNat s.ctx.tagLen.toNat

/-- `TAGS[0..CTX.TAGLEN)`, the tag cut to the configured length (`46_tag_verifier.md` R241). -/
def State.computedTag (s : State) : List Byte := s.tags.toList.take s.ctx.tagLen.toNat

/-- `Range(sel)` (R215). -/
def State.range (s : State) : AbsSrc → List Byte
  | .aad => s.readRange .aadBuf 0 s.aadeff.toNat
  | .pin => s.payloadIn
  | .pout => s.payloadOut
  | .b0 => s.frame.b0.toList
  | .a0 => s.frame.a0.toList.take s.a0len.toNat
  | .lenblk => s.frame.len.toList
  | .digs => s.digs.toList.take s.diglen.toNat
  | .iv8 => s.readRange .ivBuf 0 8

/-- The counter block of a `CTAG` (R223). -/
def State.maskBlock (s : State) : MaskBlk → Block
  | .ctr0 => s.frame.ctr0
  | .j1 => s.frame.j1

/-- `F.CTR0[0..15) || 01`, the payload's first counter block of CCM (R213, `43_frame_builder.md` R164). -/
def ctr0p1 (ctr0 : Block) : Block := toBlock (ctr0.toList.take 15 ++ [0x01])

/-- What the cipher engine makes of the payload (R217, R218). -/
def State.ciphered (s : State) : List Byte :=
  blockCipherApply s.ce.fam s.ce.keyBytes s.ce.mode s.ce.dir s.ce.iv s.payloadIn

/-- The direction a `TAGOUT` belongs to: `STORE` ends an encryption, `CMP` a decryption (R240: `mode` equals the latch `DIR`). -/
def tagDir : TagMode → Dir
  | .store => .encrypt
  | .cmp => .decrypt

/-- The OR over all byte differences of two strings (R240, R243): no position ends the comparison early. -/
def diffBytes (x y : List Byte) : Byte := (xorBytes x y).foldl (· ||| ·) 0

end Sys2Proof.Machine
end

