-- ==== Sys2Proof/Machine/FrameBuild.lean ====
section
/-! DEFINITION. The Frame Builder (`spec/43_frame_builder.md`). `iv` is `IVBUF[0..16)`; each rule uses the bytes R156 lists. -/

namespace Sys2Proof.Machine

open Sys2Proof

/-- `F.CIV` of CBC (R157): the IV of one cipher block, zero-filled. -/
def cbcCiv (c : Ctx) (iv : List Byte) : Block := toBlock (iv.take (cblock c.family))

/-- `F.CIV` of CTR (R158), or with the RFC 3686 wrapper nonce, IV and the counter 1 (R159). -/
def ctrCiv (c : Ctx) (iv : List Byte) : Block :=
  if c.wrap = .rfc3686 then toBlock (c.nonce.toList ++ iv.take 8 ++ be 4 1) else toBlock (iv.take 16)

/-- `F.IVX` of CCM (R160), or with the RFC 4309 wrapper (R168). -/
def ccmIvx (c : Ctx) (iv : List Byte) : Block :=
  if c.wrap = .rfc4309 then toBlock ([0x03] ++ c.nonce.toList.take 3 ++ iv.take 8 ++ zeros 4) else toBlock (iv.take 16)

/-- `L'`, the first byte of `F.IVX` (R161). -/
def ccmLp (ivx : Block) : Nat := (ivx.toList.headD 0).toNat

/-- The nonce area `F.IVX[1..16-L)` with `L = L' + 1` (R162). -/
def ccmNonce (ivx : Block) : List Byte := slice ivx.toList 1 (16 - (ccmLp ivx + 1))

/-- The flags byte of `F.B0` (R162): bit 6 when there is associated data, bits 5 to 3 `(TAGLEN - 2) / 2`, bits 2 to 0 `L'`. -/
def ccmFlags (aadeff tagLen lp : Nat) : Byte :=
  (if 0 < aadeff then 0x40 else 0x00) ||| (BitVec.ofNat 8 ((tagLen - 2) / 2) <<< 3) ||| BitVec.ofNat 8 lp

/-- `F.B0` (R162). -/
def ccmB0 (ivx : Block) (tagLen aadeff cryptlen : Nat) : Block :=
  toBlock (ccmFlags aadeff tagLen (ccmLp ivx) :: (ccmNonce ivx ++ be (ccmLp ivx + 1) cryptlen))

/-- The associated-data length header, its valid bytes (R163). -/
def ccmA0 (aadeff : Nat) : List Byte :=
  if aadeff = 0 then []
  else if aadeff < 0xFF00 then be 2 aadeff
  else [0xFF, 0xFE] ++ be 4 aadeff

/-- `F.CTR0` (R164): flags `L'` alone, the nonce area, a zero counter. -/
def ccmCtr0 (ivx : Block) : Block :=
  toBlock (BitVec.ofNat 8 (ccmLp ivx) :: (ccmNonce ivx ++ zeros (ccmLp ivx + 1)))

/-- The 12-byte GCM nonce (R172), or with the RFC 4106 and RFC 4543 wrappers salt and IV (R176, R177). -/
def gcmNonce (c : Ctx) (iv : List Byte) : List Byte :=
  if c.wrap = .rfc4106 ∨ c.wrap = .rfc4543 then c.nonce.toList ++ iv.take 8 else iv.take 12

/-- `F.LEN` (R174), or for RFC 4543 the combined length (R178). -/
def gcmLen (c : Ctx) (cryptlen aadeff : Nat) : Block :=
  if c.wrap = .rfc4543 then toBlock (be 8 ((aadeff + 8 + cryptlen) * 8) ++ zeros 8)
  else toBlock (be 8 (aadeff * 8) ++ be 8 (cryptlen * 8))

/-- The CCM frame (R160 to R168), with its two checks. -/
def ccmFrame (c : Ctx) (iv : List Byte) (cryptlen aadeff : Nat) : Except CmdError (Frame × BitVec 3) :=
  let ivx := ccmIvx c iv
  let l := ccmLp ivx + 1
  if ccmLp ivx < 1 ∨ 7 < ccmLp ivx then .error .invalidIvFormat
  else if l < 4 ∧ 2 ^ (8 * l) ≤ cryptlen then .error .lengthOverflow
  else
    .ok ({ zeroFrame with ivx := ivx, b0 := ccmB0 ivx c.tagLen.toNat aadeff cryptlen, a0 := toBlock (ccmA0 aadeff),
                          ctr0 := ccmCtr0 ivx },
         BitVec.ofNat 3 (ccmA0 aadeff).length)

/-- The GCM frame (R172 to R178). -/
def gcmFrame (c : Ctx) (iv : List Byte) (cryptlen aadeff : Nat) : Frame :=
  { zeroFrame with ivx := toBlock (gcmNonce c iv), j1 := toBlock (gcmNonce c iv ++ be 4 1),
                   j2 := toBlock (gcmNonce c iv ++ be 4 2), len := gcmLen c cryptlen aadeff }

/-- `FrameBuild()` (R155): the frame registers and `A0LEN`; registers a mode does not write stay zero. A wrapper of another mode,
which no legal configuration has (R84), is taken as `NONE`: the model's choice (log 28). -/
def frameBuild (c : Ctx) (iv : List Byte) (cryptlen aadeff : Nat) : Except CmdError (Frame × BitVec 3) :=
  match c.cipherMode with
  | .cbc => .ok ({ zeroFrame with civ := cbcCiv c iv }, 0)
  | .ctr => .ok ({ zeroFrame with civ := ctrCiv c iv }, 0)
  | .ccm => ccmFrame c iv cryptlen aadeff
  | .gctr => .ok (gcmFrame c iv cryptlen aadeff, 0)

end Sys2Proof.Machine
end

