-- ==== Sys2Proof/Machine/KeySchedule.lean ====
section
/-! DEFINITION. The configuration word (`spec/30_encoding.md` R72 to R77, R84 to R86) and the Key Schedule Manager
(`spec/41_key_schedule.md`), the computation inside `SETKEY`. -/

namespace Sys2Proof.Machine

open Sys2Proof

/-- The five fields of a configuration word (R72). -/
structure CfgFields where
  cipherMode : CipherMode
  authMode : AuthMode
  family : Family
  wrap : Wrap
  tagLen : BitVec 6
deriving DecidableEq, Repr

/-- `CFG[1:0]` (R73). -/
def cipherModeOf (c : BitVec 2) : CipherMode :=
  match c.toNat with
  | 0 => .cbc | 1 => .ctr | 2 => .ccm | _ => .gctr

/-- `CFG[3:2]` (R74). -/
def authModeOf (c : BitVec 2) : AuthMode :=
  match c.toNat with
  | 0 => .hmacSha1 | 1 => .hmacSha256 | 2 => .xcbc | _ => .none

/-- `CFG[4]` (R75). -/
def familyOf (c : BitVec 1) : Family := if c = 0 then .aes else .tdes

/-- `CFG[7:5]` (R76); 5 to 7 are reserved. -/
def wrapOf (c : BitVec 3) : Option Wrap :=
  match c.toNat with
  | 0 => some .none | 1 => some .rfc3686 | 2 => some .rfc4309 | 3 => some .rfc4106 | 4 => some .rfc4543 | _ => none

/-- The fields of `CFG`, if no bit of `[31:14]` is set and `WRAP` is no reserved code (R72, R86). -/
def parseCfg (w : Word) : Option CfgFields :=
  if w.extractLsb' 14 18 = 0 then
    (wrapOf (w.extractLsb' 5 3)).map fun wrap =>
      { cipherMode := cipherModeOf (w.extractLsb' 0 2), authMode := authModeOf (w.extractLsb' 2 2),
        family := familyOf (w.extractLsb' 4 1), wrap := wrap, tagLen := w.extractLsb' 8 6 }
  else none

/-- The legal combinations of R84. -/
def legalCombo (c : CipherMode) (a : AuthMode) (f : Family) (w : Wrap) : Bool :=
  match c with
  | .cbc => a ≠ .none && w = .none
  | .ctr => a ≠ .none && f = .aes && (w = .none || w = .rfc3686)
  | .ccm => a = .none && f = .aes && (w = .none || w = .rfc4309)
  | .gctr => a = .none && f = .aes && (w = .none || w = .rfc4106 || w = .rfc4543)

/-- The legal tag lengths of R85. -/
def legalTagLen (c : CipherMode) (a : AuthMode) (t : Nat) : Bool :=
  match c with
  | .ccm => 4 ≤ t && t ≤ 16 && t % 2 = 0
  | .gctr => 1 ≤ t && t ≤ 16
  | .cbc | .ctr =>
    match a with
    | .hmacSha1 => 1 ≤ t && t ≤ 20
    | .hmacSha256 => 1 ≤ t && t ≤ 32
    | .xcbc => 1 ≤ t && t ≤ 16
    | .none => false

/-- `LegalCfg(CFG)` (R84 to R86, `40_host_commands.md` R104): the fields, when legal. -/
def legalCfg (w : Word) : Option CfgFields :=
  (parseCfg w).filter fun c =>
    legalCombo c.cipherMode c.authMode c.family c.wrap && legalTagLen c.cipherMode c.authMode c.tagLen.toNat

/-- `NonceLen(WRAP)` (R124). -/
def nonceLen : Wrap → Nat
  | .none => 0
  | .rfc3686 => 4
  | .rfc4309 => 3
  | .rfc4106 => 4
  | .rfc4543 => 4

/-- `EncKeyLenOk(FAMILY, n)` (R125). -/
def encKeyLenOk (f : Family) (n : Nat) : Bool :=
  match f with
  | .aes => n = 16 || n = 24 || n = 32
  | .tdes => n = 24

/-- `AuthKeyLenOk(AUTH_MODE, n)` (R126). -/
def authKeyLenOk (a : AuthMode) (n : Nat) : Bool :=
  match a with
  | .hmacSha1 => true
  | .hmacSha256 => true
  | .xcbc => n = 16 || n = 24 || n = 32
  | .none => n = 0

/-- The HMAC key block `K0`, 64 bytes (R127): a key longer than 64 bytes is hashed first. -/
def hmacKeyBlock (alg : MacAlg) (ak : List Byte) : List Byte :=
  if 64 < ak.length then ofLength 64 (hashDigest alg ak) else ofLength 64 ak

/-- The ipad or opad state (R128): `K0 xor c^64` absorbed, not finalized. -/
def padState (alg : MacAlg) (c : Byte) (ak : List Byte) : MacState :=
  macAbsorb (macInit alg) (xorRepeat c (hmacKeyBlock alg ak))

/-- An XCBC subkey (R130): the encryption of sixteen equal bytes under the raw authentication key. -/
def xcbcSubkey (ak : List Byte) (c : Byte) : Block := aesEnc ak (toBlock (List.replicate 16 c))

/-- `DeriveAuth(AUTH_MODE, ak)` (R127 to R131) when no primitive fails. -/
def deriveAuth (a : AuthMode) (ak : List Byte) : AuthMat :=
  match a with
  | .hmacSha1 => .hmac (padState .sha1 0x36 ak) (padState .sha1 0x5C ak)
  | .hmacSha256 => .hmac (padState .sha256 0x36 ak) (padState .sha256 0x5C ak)
  | .xcbc => .xcbc (xcbcSubkey ak 0x01) (xcbcSubkey ak 0x02) (xcbcSubkey ak 0x03)
  | .none => .none

/-- How many primitive calls `DeriveAuth` makes, each with a draw (R132; log 8). -/
def authCalls (a : AuthMode) (ak : List Byte) : Nat :=
  match a with
  | .hmacSha1 | .hmacSha256 => if 64 < ak.length then 3 else 2
  | .xcbc => 3
  | .none => 0

/-- Up to `n` draws, stopping at the first true one: whether one was true, and the draws left (R132). -/
def drawMany : (n : Nat) → List Bool → Bool × List Bool
  | 0, ds => (false, ds)
  | n + 1, ds => if ds.headD false then (true, ds.tail) else drawMany n ds.tail

/-- `KeySchedule(CFG, blob, KEYLEN, AUTHKEYLEN)` (R121), with the draws left. -/
def keySchedule (caps : Caps) (c : CfgFields) (blob : List Byte) (keylen authkeylen : Nat) (draws : List Bool) :
    Except CmdError Ctx × List Bool :=
  if caps.keyCap < keylen ∨ keylen < authkeylen then (.error .invalidKeyLength, draws)
  else
    let ak := slice blob 0 authkeylen
    let part := slice blob authkeylen keylen
    let n := nonceLen c.wrap
    if part.length < n then (.error .invalidKeyLength, draws)
    else
      let ek := part.take (part.length - n)
      let nonce := part.drop (part.length - n)
      if encKeyLenOk c.family ek.length && authKeyLenOk c.authMode ak.length then
        match drawMany (authCalls c.authMode ak) draws with
        | (true, ds) => (.error .keyDerivationFailed, ds)
        | (false, ds) =>
          (.ok { cipherMode := c.cipherMode, authMode := c.authMode, family := c.family, wrap := c.wrap,
                 tagLen := c.tagLen, encKey := toReg 32 ek, encKeyLen := BitVec.ofNat 6 ek.length,
                 nonce := toReg 4 nonce, nonceLen := BitVec.ofNat 3 n, authMat := deriveAuth c.authMode ak }, ds)
      else (.error .invalidKeyLength, draws)

end Sys2Proof.Machine
end

