-- ==== Sys2Proof/Machine/ModeSelect.lean ====
section
/-! DEFINITION. The Mode Selector and Validator (`spec/42_mode_selector.md`). -/

namespace Sys2Proof.Machine

open Sys2Proof

/-- The Mode Selector's outputs (R140): `CRYPTLEN`, `AADEFF` and the single-pass verdict. -/
structure Verdict where
  cryptlen : Nat
  aadeff : Nat
  sp : Bool
deriving DecidableEq, Repr

/-- The wrappers whose associated data carries a copy of the 8-byte IV (R145, R146). -/
def ivWrapped : Wrap → Bool
  | .none => false
  | .rfc3686 => false
  | .rfc4309 => true
  | .rfc4106 => true
  | .rfc4543 => true

/-- `SinglePass(cryptlen, aadeff)` (R147 to R149). `AUTH_MODE` plays no part, also where no legal configuration has it (log 28). -/
def singlePass (c : Ctx) (cryptlen aadeff : Nat) : Bool :=
  if c.wrap = .rfc4543 then false
  else
    match c.cipherMode with
    | .ccm => true
    | .gctr => true
    | .cbc => aadeff % 4 = 0
    | .ctr => aadeff % 4 = 0 && cryptlen % 4 = 0

/-- `ModeSelect(d, INLEN, AADLEN)` (R140): the checks in order, the first failing one decides the error. -/
def modeSelect (caps : Caps) (c : Ctx) (d : Dir) (inlen aadlen : Nat) : Except CmdError Verdict :=
  let t := c.tagLen.toNat
  if d = .decrypt ∧ inlen < t then .error .invalidLength
  else
    let cryptlen := if d = .decrypt then inlen - t else inlen
    if caps.bufCap < inlen ∨ caps.aadCap < aadlen ∨ (d = .encrypt ∧ caps.bufCap < inlen + t) then .error .invalidLength
    else if c.cipherMode = .cbc ∧ cryptlen % cblock c.family ≠ 0 then .error .invalidLength
    else if ivWrapped c.wrap = true ∧ aadlen ≠ 16 ∧ aadlen ≠ 20 then .error .invalidAssociatedDataLength
    else
      let aadeff := if ivWrapped c.wrap then aadlen - 8 else aadlen
      .ok { cryptlen := cryptlen, aadeff := aadeff, sp := singlePass c cryptlen aadeff }

end Sys2Proof.Machine
end

