-- ==== Sys2Proof/Machine/PlanGen.lean ====
section
/-! DEFINITION. The Operation Sequencer's plan generation (`spec/44_plan_generation.md`): the plan as a list of operations and
as the words the setup step stores. -/

namespace Sys2Proof.Machine

open Sys2Proof

/-- Operations emitted only under a condition (R205: no operation on an empty range). -/
def emitIf (b : Bool) (l : List Instr) : List Instr := if b then l else []

/-- The authentication modes whose MAC is HMAC (R187). -/
def isHmac : AuthMode → Bool
  | .hmacSha1 => true
  | .hmacSha256 => true
  | .xcbc => false
  | .none => false

/-- `CipherLoad` (R187). -/
def cipherLoad (c : Ctx) (d : Dir) : List Instr :=
  [.keyldCe (if c.cipherMode = .cbc then .cbc else .ctr) d, .stldCeCiv]

/-- `MacLoad` (R187): XCBC's sequence for every mode but HMAC; that `NONE`, which R187 does not list, takes it too is the model's
choice (log 28). -/
def macLoad (c : Ctx) : List Instr := if isHmac c.authMode then [.stldMeIpad] else [.keyldMeXcbc, .stldMeZero]

/-- `MacFinish` (R187); `NONE` as in `macLoad` (log 28). -/
def macFinish (c : Ctx) : List Instr :=
  if isHmac c.authMode then [.hfin, .hext .digs, .stldMeOpad, .habs .digs 0, .hfin, .hext .tags]
  else [.hfin, .hext .tags]

/-- `TAGOUT STORE` on encrypt, `TAGOUT CMP` on decrypt (R204). -/
def tagStep : Dir → Instr
  | .encrypt => .tagout .store
  | .decrypt => .tagout .cmp

/-- The side a `FUSE` absorbs when the MAC runs over the ciphertext: HMAC, XCBC and GCM (R192). -/
def cipherSide : Dir → Side
  | .encrypt => .output
  | .decrypt => .input

/-- The side a `FUSE` absorbs when the MAC runs over the plaintext: CCM (R192). -/
def plainSide : Dir → Side
  | .encrypt => .input
  | .decrypt => .output

/-- HMAC and XCBC, single pass (R188). -/
def planSingle (c : Ctx) (d : Dir) (cryptlen aadeff : Nat) : List Instr :=
  macLoad c ++ cipherLoad c d ++ emitIf (0 < aadeff) [.habs .aad 0] ++ emitIf (0 < cryptlen) [.fuse (cipherSide d) 0]
    ++ macFinish c ++ [tagStep d]

/-- HMAC and XCBC, double pass, encrypt (R189). -/
def planDoubleEnc (c : Ctx) (cryptlen aadeff : Nat) : List Instr :=
  cipherLoad c .encrypt ++ emitIf (0 < cryptlen) [.capp] ++ macLoad c ++ emitIf (0 < aadeff) [.habs .aad 0]
    ++ emitIf (0 < cryptlen) [.habs .pout 0] ++ macFinish c ++ [tagStep .encrypt]

/-- HMAC and XCBC, double pass, decrypt (R190). -/
def planDoubleDec (c : Ctx) (cryptlen aadeff : Nat) : List Instr :=
  macLoad c ++ emitIf (0 < aadeff) [.habs .aad 0] ++ emitIf (0 < cryptlen) [.habs .pin 0] ++ macFinish c
    ++ cipherLoad c .decrypt ++ emitIf (0 < cryptlen) [.capp] ++ [tagStep .decrypt]

/-- CCM (R200). -/
def planCcm (d : Dir) (cryptlen aadeff a0len : Nat) : List Instr :=
  [.keyldCe .ctr d, .stldCeCtr0p1, .keyldMeCbcmac, .stldMeZero, .habs .b0 0]
    ++ emitIf (0 < aadeff) [.habs .a0 0, .habs .aad (pad16 (a0len + aadeff))]
    ++ emitIf (0 < cryptlen) [.fuse (plainSide d) (pad16 cryptlen)]
    ++ [.hext .tags, .ctag .ctr0, tagStep d]

/-- GCM (R201). -/
def planGcm (d : Dir) (cryptlen aadeff : Nat) : List Instr :=
  [.keyldCe .ecb .encrypt, .hdrv, .keyldMeGhash, .stldMeZero]
    ++ emitIf (0 < aadeff) [.habs .aad (pad16 aadeff)]
    ++ [.keyldCe .gctr d, .stldCeJ2]
    ++ emitIf (0 < cryptlen) [.fuse (cipherSide d) (pad16 cryptlen)]
    ++ [.habs .lenblk 0, .hext .tags, .ctag .j1, tagStep d]

/-- RFC 4543 (R202). -/
def planGmac (d : Dir) (cryptlen aadeff : Nat) : List Instr :=
  [.keyldCe .ecb .encrypt, .hdrv, .keyldMeGhash, .stldMeZero, .habs .aad 0,
   .habs .iv8 (if cryptlen = 0 then pad16 (aadeff + 8) else 0)]
    ++ emitIf (0 < cryptlen) [.copy, .habs .pin (pad16 (aadeff + 8 + cryptlen))]
    ++ [.habs .lenblk 0, .hext .tags, .ctag .j1, tagStep d]

/-- `PlanGen()` (R185), by the rows of R186. The spec gives a tuple outside those rows no plan, since none is reachable. DESIGN
CHOICE (log 28): it gets the plan of its cipher mode here, CBC or CTR with `AUTH_MODE = NONE` the XCBC one, GCTR under any
wrapper but RFC 4543 the GCM one; `SP` plays no part in CCM and GCTR, `AUTH_MODE` none there, nor `WRAP` in CBC, CTR and CCM. -/
def planGen (c : Ctx) (d : Dir) (sp : Bool) (cryptlen aadeff a0len : Nat) : List Instr :=
  match c.cipherMode with
  | .cbc | .ctr =>
    if sp then planSingle c d cryptlen aadeff
    else
      match d with
      | .encrypt => planDoubleEnc c cryptlen aadeff
      | .decrypt => planDoubleDec c cryptlen aadeff
  | .ccm => planCcm d cryptlen aadeff a0len
  | .gctr => if c.wrap = .rfc4543 then planGmac d cryptlen aadeff else planGcm d cryptlen aadeff

/-- The sixteen words of `PLAN`: the encoded operations, then zeros (`10_state.md` R38, R185). -/
def planWords (l : List Instr) : Vector Word 16 := fitTo 16 0 (l.map encode)

end Sys2Proof.Machine
end

