-- ==== Sys2Proof/Machine/Commands.lean ====
section
/-! DEFINITION. The setup steps of the four host commands (`spec/40_host_commands.md` R103 to R111). -/

namespace Sys2Proof.Machine

open Sys2Proof

/-- The blob `KEYBUF[0..min(KEYLEN, KEY_CAP))` (R104). -/
def State.blob (s : State) : List Byte := s.readRange .keyBuf 0 (min s.keylen.toNat s.caps.keyCap)

/-- `SETKEY` (R104): `KEYBUF` is zeroized whatever the outcome. -/
def execSetkey (s : State) : Out :=
  let z := s.zeroKeyBuf
  if s.status.ctxv then .next (z.raise .illegalCommand)
  else
    match legalCfg s.cfg with
    | none => .next (z.raise .illegalCommand)
    | some c =>
      match keySchedule s.caps c s.blob s.keylen.toNat s.authkeylen.toNat s.draws with
      | (.error e, ds) => .next ({ z with draws := ds }.raise e)
      | (.ok ctx, ds) => .next { z with draws := ds, ctx := ctx, status := { z.status with ctxv := true } }.complete

/-- The caller's IV block, `IVBUF[0..16)` (`43_frame_builder.md` R156). -/
def State.ivBytes (s : State) : List Byte := s.readRange .ivBuf 0 16

/-- `RequestSetup(d)` (R107), the setup step `ENC` and `DEC` share. -/
def State.requestSetup (s : State) (d : Dir) : State :=
  if !s.status.ctxv then s.raise .illegalCommand
  else
    match modeSelect s.caps s.ctx d s.inlen.toNat s.aadlen.toNat with
    | .error e => { s with dir := d }.raise e
    | .ok v =>
      let s1 : State := { s with dir := d, cryptlen := BitVec.ofNat 32 v.cryptlen, aadeff := BitVec.ofNat 32 v.aadeff,
                                 status := { s.status with sp := v.sp } }
      match frameBuild s.ctx s.ivBytes v.cryptlen v.aadeff with
      | .error e => s1.raise e
      | .ok (f, a0len) =>
        let plan := planGen s.ctx d v.sp v.cryptlen v.aadeff a0len.toNat
        { s1 with frame := f, a0len := a0len, plan := planWords plan, plen := BitVec.ofNat 5 plan.length, pp := 0,
                  outw := false, phase := .exec }

/-- `ENC` (R105). -/
def execEnc (s : State) : Out := .next (s.requestSetup .encrypt)

/-- `DEC` (R106). -/
def execDec (s : State) : Out := .next (s.requestSetup .decrypt)

/-- `CLRKEY` (R110). -/
def execClrkey (s : State) : Out :=
  let z := s.zeroKeyBuf
  .next { z with ctx := zeroCtx, status := { z.status with ctxv := false } }.complete

/-- The setup step of a reserved command word (R111), and an operation step that fetches a reserved plan word (R210). -/
def illegalWord (s : State) : Out := .next (s.raise .illegalCommand)

end Sys2Proof.Machine
end

