-- ==== Sys2Proof/Machine/Loads.lean ====
section
/-! DEFINITION. The loads of the cipher engine and the MAC engine: `KEYLD` (`spec/45_plan_ops.md` R211, R212) and `STLD`
(R213, R214). None calls a primitive. -/

namespace Sys2Proof.Machine

open Sys2Proof

/-- `KEYLD CE, m, d` (R211). -/
def execKeyldCe (m : CeMode) (d : Dir) (s : State) : Out :=
  .next { s with ce := { s.ce with fam := s.ctx.family, key := toReg 32 s.ctx.keyBytes, keyLen := s.ctx.encKeyLen,
                                   mode := m, dir := d } }.advance

/-- The MAC engine's algorithm and key loaded, its state kept (R212). -/
def State.loadMacKey (s : State) (alg : MacAlg) (key : List Byte) : State :=
  { s with me := { s.me with alg := alg, key := key } }

/-- `KEYLD ME, XCBC` (R212): needs `CTX.AUTH_MODE = XCBC`, whose material is `K1`, `K2`, `K3` (R31). -/
def execKeyldMeXcbc (s : State) : Out :=
  match s.ctx.authMat with
  | .xcbc k1 k2 k3 =>
    .next (s.require (s.ctx.authMode = .xcbc) fun s =>
      (s.loadMacKey .xcbc (k1.toList ++ k2.toList ++ k3.toList)).advance)
  | .none => .next (s.raise .illegalCommand)
  | .hmac _ _ => .next (s.raise .illegalCommand)

/-- `KEYLD ME, CBCMAC` (R212): the MAC key is the encryption key. -/
def execKeyldMeCbcmac (s : State) : Out := .next (s.loadMacKey .cbcmac s.ctx.keyBytes).advance

/-- `KEYLD ME, GHASH` (R212): needs a preceding `HDRV`. -/
def execKeyldMeGhash (s : State) : Out :=
  .next (s.require (s.hasRun .hdrv) fun s => (s.loadMacKey .ghash s.frame.h.toList).advance)

/-- `CE.IV` loaded (R213). -/
def State.loadIv (s : State) (iv : Block) : State := { s with ce := { s.ce with iv := iv } }

/-- `STLD CE, CIV` (R213). -/
def execStldCeCiv (s : State) : Out := .next (s.loadIv s.frame.civ).advance

/-- `STLD CE, CTR0P1` (R213). -/
def execStldCeCtr0p1 (s : State) : Out := .next (s.loadIv (ctr0p1 s.frame.ctr0)).advance

/-- `STLD CE, J2` (R213). -/
def execStldCeJ2 (s : State) : Out := .next (s.loadIv s.frame.j2).advance

/-- A keyed hash state loaded whole, with its algorithm and no key (R214). -/
def State.loadHash (s : State) (alg : MacAlg) (st : MacState) : State := { s with me := { alg := alg, key := [], st := st } }

/-- `STLD ME, IPAD` (R214): needs `CTX.AUTHMAT` of variant `Hmac`. -/
def execStldMeIpad (s : State) : Out :=
  match s.ctx.authMat, hashAlg s.ctx.authMode with
  | .hmac ipad _, some alg => .next (s.loadHash alg ipad).advance
  | _, _ => .next (s.raise .illegalCommand)

/-- `STLD ME, OPAD` (R214): needs `CTX.AUTHMAT` of variant `Hmac`. -/
def execStldMeOpad (s : State) : Out :=
  match s.ctx.authMat, hashAlg s.ctx.authMode with
  | .hmac _ opad, some alg => .next (s.loadHash alg opad).advance
  | _, _ => .next (s.raise .illegalCommand)

/-- The algorithms `STLD ME, ZERO` serves (R214). -/
def zeroStateAlg : MacAlg → Bool
  | .sha1 => false
  | .sha256 => false
  | .xcbc => true
  | .cbcmac => true
  | .ghash => true

/-- `STLD ME, ZERO` (R214): the empty state of the algorithm already loaded. -/
def execStldMeZero (s : State) : Out :=
  .next (s.require (zeroStateAlg s.me.alg) fun s => { s with me := { s.me with st := macInit s.me.alg } }.advance)

end Sys2Proof.Machine
end

