-- ==== Sys2Proof/Machine/Payload.lean ====
section
/-! DEFINITION. Absorbing, ciphering and copying: `HABS` (`spec/45_plan_ops.md` R216), `CAPP` (R217), `FUSE` (R218) and
`COPY` (R219). -/

namespace Sys2Proof.Machine

open Sys2Proof

/-- The MAC engine absorbs a string (R216). -/
def State.absorb (s : State) (data : List Byte) : State := { s with me := { s.me with st := macAbsorb s.me.st data } }

/-- `OUTW <- 1`: a payload-writing operation has started (R217 to R219, `10_state.md` R40). -/
def State.startOutput (s : State) : State := { s with outw := true }

/-- `HABS src, pad=n` (R216). -/
def execHabs (src : AbsSrc) (pad : Nat) (s : State) : Out :=
  let data := s.range src ++ zeros pad
  .next (s.require (!s.me.st.fin && data ≠ []) fun s => s.primitiveCall fun s => (s.absorb data).advance)

/-- `CAPP` (R217): `OUTW` is set before the draw. -/
def execCapp (s : State) : Out :=
  .next (s.require (0 < s.cryptlen.toNat && (s.ce.mode = .cbc || s.ce.mode = .ctr)) fun s =>
    s.startOutput.primitiveCall fun s => (s.writeRange .outBuf 0 s.ciphered).advance)

/-- The bytes a `FUSE` absorbs, before its padding (R218). -/
def State.fusedSide (s : State) : Side → List Byte
  | .input => s.payloadIn
  | .output => s.ciphered

/-- `FUSE side, pad=n` (R218): one draw for the cipher and the absorb. -/
def execFuse (side : Side) (pad : Nat) (s : State) : Out :=
  .next (s.require (0 < s.cryptlen.toNat && s.ce.mode ≠ .ecb && !s.me.st.fin) fun s =>
    s.startOutput.primitiveCall fun s =>
      ((s.writeRange .outBuf 0 s.ciphered).absorb (s.fusedSide side ++ zeros pad)).advance)

/-- `COPY` (R219). -/
def execCopy (s : State) : Out :=
  .next (s.require (0 < s.cryptlen.toNat) fun s => (s.startOutput.writeRange .outBuf 0 s.payloadIn).advance)

end Sys2Proof.Machine
end

