-- ==== Sys2Proof/Machine/Tag.lean ====
section
/-! DEFINITION. The hash subkey, finalization, extraction and the tag: `HDRV` (`spec/45_plan_ops.md` R220), `HFIN` (R221),
`HEXT` (R222), `CTAG` (R223) and `TAGOUT` (`spec/46_tag_verifier.md` R240). -/

namespace Sys2Proof.Machine

open Sys2Proof

/-- `HDRV` (R220): `F.H <- AesEnc(CE.KEY, 0^16)`. -/
def execHdrv (s : State) : Out :=
  .next (s.require (s.ce.mode = .ecb && s.ce.dir = .encrypt && s.ce.fam = .aes) fun s => s.primitiveCall fun s =>
    { s with frame := { s.frame with h := aesEnc s.ce.keyBytes (zeroBytes 16) } }.advance)

/-- The algorithms `HFIN` finalizes (R221). -/
def finalizes : MacAlg → Bool
  | .sha1 => true
  | .sha256 => true
  | .xcbc => true
  | .cbcmac => false
  | .ghash => false

/-- `HFIN` (R221). -/
def execHfin (s : State) : Out :=
  .next (s.require (finalizes s.me.alg && !s.me.st.fin) fun s => s.primitiveCall fun s =>
    { s with me := { s.me with st := macFinalize s.me.st } }.advance)

/-- The digest of the MAC engine (R222). -/
def State.digest (s : State) : List Byte := macDigest s.me.alg s.me.key s.me.st

/-- The digest put where a `HEXT` puts it, zero-filled to 32 bytes (R222). -/
def State.extract (s : State) : ExtDst → State
  | .tags => { s with tags := toReg 32 s.digest }
  | .digs => { s with digs := toReg 32 s.digest, diglen := BitVec.ofNat 6 s.digest.length }

/-- `HEXT DIGS` belongs to the two hashes; `HEXT TAGS` to every algorithm (R222). -/
def extractOk : ExtDst → MacAlg → Bool
  | .tags, _ => true
  | .digs, alg => alg = .sha1 || alg = .sha256

/-- `HEXT dst` (R222). -/
def execHext (dst : ExtDst) (s : State) : Out :=
  .next (s.require (macDigestOk s.me.alg s.me.st && extractOk dst s.me.alg) fun s => (s.extract dst).advance)

/-- `TAGS[0..16) <- TAGS[0..16) xor mask` (R223). -/
def State.maskTag (s : State) (mask : Block) : State :=
  { s with tags := toReg 32 (xorBytes (s.tags.toList.take 16) mask.toList ++ s.tags.toList.drop 16) }

/-- `CTAG iv` (R223): the key comes from the context; needs a preceding `HEXT TAGS` and `CTX.FAMILY = AES`. -/
def execCtag (blk : MaskBlk) (s : State) : Out :=
  .next (s.require (s.hasRun (.hext .tags) && s.ctx.family = .aes) fun s => s.primitiveCall fun s =>
    (s.maskTag (aesEnc s.ctx.keyBytes (s.maskBlock blk))).advance)

/-- The tag appended to the output and `OUTLEN` (R240, R242). -/
def State.storeTag (s : State) : State :=
  { s.writeRange .outBuf s.cryptlen.toNat s.computedTag with outlen := s.cryptlen + s.ctx.tagLen.setWidth 32 }

/-- The comparison and its outcome (R240, R243 to R245). -/
def State.compareTag (s : State) : State :=
  if diffBytes s.computedTag s.receivedTag = 0 then { s with outlen := s.cryptlen }.advance
  else s.zeroOutput.raise .authenticationFailed

/-- `TAGOUT mode` (R240): needs `mode` equal to the latch `DIR` and a preceding `HEXT TAGS`. -/
def execTagout (mode : TagMode) (s : State) : Out :=
  .next (s.require (s.dir = tagDir mode && s.hasRun (.hext .tags)) fun s =>
    match mode with
    | .store => s.storeTag.advance
    | .cmp => s.compareTag)

end Sys2Proof.Machine
end

