-- ==== Sys2Proof/Machine/Dispatch.lean ====
section
/-! DEFINITION. The meaning of each instruction: one arm per row of `spec/opcode_table.json`. -/

namespace Sys2Proof.Machine

open Sys2Proof

def exec (i : Instr) (s : State) : Host.Outcome State Fault Refusal :=
  match i with
  | .setkey => Sys2Proof.Machine.execSetkey s
  | .enc => Sys2Proof.Machine.execEnc s
  | .dec => Sys2Proof.Machine.execDec s
  | .clrkey => Sys2Proof.Machine.execClrkey s
  | .keyldCe mode dir => Sys2Proof.Machine.execKeyldCe mode dir s
  | .keyldMeXcbc => Sys2Proof.Machine.execKeyldMeXcbc s
  | .keyldMeCbcmac => Sys2Proof.Machine.execKeyldMeCbcmac s
  | .keyldMeGhash => Sys2Proof.Machine.execKeyldMeGhash s
  | .stldCeCiv => Sys2Proof.Machine.execStldCeCiv s
  | .stldCeCtr0p1 => Sys2Proof.Machine.execStldCeCtr0p1 s
  | .stldCeJ2 => Sys2Proof.Machine.execStldCeJ2 s
  | .stldMeIpad => Sys2Proof.Machine.execStldMeIpad s
  | .stldMeOpad => Sys2Proof.Machine.execStldMeOpad s
  | .stldMeZero => Sys2Proof.Machine.execStldMeZero s
  | .habs src pad => Sys2Proof.Machine.execHabs src pad s
  | .capp => Sys2Proof.Machine.execCapp s
  | .fuse side pad => Sys2Proof.Machine.execFuse side pad s
  | .copy => Sys2Proof.Machine.execCopy s
  | .hdrv => Sys2Proof.Machine.execHdrv s
  | .hfin => Sys2Proof.Machine.execHfin s
  | .hext dst => Sys2Proof.Machine.execHext dst s
  | .ctag blk => Sys2Proof.Machine.execCtag blk s
  | .tagout mode => Sys2Proof.Machine.execTagout mode s

end Sys2Proof.Machine
end

