-- ==== Sys2Proof/Machine/HostPort.lean ====
section
/-! DEFINITION. The host's operations (`spec/40_host_commands.md` R100 to R102, `spec/20_memory.md` R52, R58, R63) and the
platform's reset (`spec/70_reset_and_hazards.md` R310). -/

namespace Sys2Proof.Machine

open Sys2Proof

/-- A register's value while the block is idle (`10_state.md` R21; `CMD` reads 0, R22). -/
def State.regValue (s : State) (n : Nat) : Word :=
  match n with
  | 1 => s.status.word
  | 2 => errWord s.errcode
  | 3 => s.cfg
  | 4 => s.keylen
  | 5 => s.authkeylen
  | 6 => s.aadlen
  | 7 => s.inlen
  | 8 => s.outlen
  | 9 => s.pp.setWidth 32
  | 10 => s.plen.setWidth 32
  | _ => 0

/-- The verdict the pending command's Mode Selector gives, 0 where it gives none (R23). -/
def State.pendingVerdict (s : State) : Bool :=
  let verdict (d : Dir) : Bool :=
    s.status.ctxv &&
      match modeSelect s.caps s.ctx d s.inlen.toNat s.aadlen.toNat with
      | .ok v => v.sp
      | .error _ => false
  match s.pend with
  | .enc => verdict .encrypt
  | .dec => verdict .decrypt
  | .none | .setkey | .clrkey | .illegal => false

/-- The current command's verdict, one of the two candidates for `STATUS.SP` while busy (R63(b), U4; log 10). -/
def State.newVerdict (s : State) : Bool :=
  match s.phase with
  | .setup => s.pendingVerdict
  | .exec => s.status.sp
  | .idle => s.status.sp

/-- The free value of the next host read while busy, and the state that has used it (R63, U3; log 9). -/
def State.freeWord (s : State) : Word := Config.busyRead s.freeIx

/-- The state after a free value was used. -/
def State.freed (s : State) : State := { s with freeIx := s.freeIx + 1 }

/-- `STATUS` as read while busy: `SP` is the previous or the current verdict, the rest exact (R63(b); log 10). -/
def State.busyStatus (s : State) : Word :=
  let sp := if s.spOld = s.newVerdict then s.spOld else s.freeWord.getLsbD 0
  Status.word { s.status with sp := sp }

/-- `HostReadReg(n)` (R100): the value and the state after (log 20). -/
def State.hostReadReg (s : State) (n : Nat) : Word × State :=
  if 11 ≤ n then (0, s)
  else if !s.status.busy then (s.regValue n, s)
  else if n = 1 then (s.busyStatus, s.freed)
  else (s.freeWord, s.freed)

/-- `HostReadByte(space, off)` (R101), in the order the rule gives its cases. -/
def State.hostReadByte (s : State) (sp : Space) (off : Nat) : Byte × State :=
  if capSize s.caps sp ≤ off then (0, s)
  else if sp = .keyBuf then (0, s)
  else if s.status.busy then (s.freeWord.setWidth 8, s.freed)
  else (s.readByte sp off, s)

/-- A plan word by index; an index at or beyond 16 names no word and reads 0 (R52, R101). -/
def State.planWord (s : State) (i : Nat) : Word := s.plan.toList.getD i 0

/-- `HostReadPlan(i)` (R101). -/
def State.hostReadPlan (s : State) (i : Nat) : Word × State :=
  if 16 ≤ i then (0, s)
  else if s.status.busy then (s.freeWord, s.freed)
  else (s.planWord i, s)

/-- `PEND` for a command (R71, R102). -/
def pendOf : Instr → Pend
  | .setkey => .setkey
  | .enc => .enc
  | .dec => .dec
  | .clrkey => .clrkey
  | .keyldCe _ _ | .keyldMeXcbc | .keyldMeCbcmac | .keyldMeGhash | .stldCeCiv | .stldCeCtr0p1 | .stldCeJ2
  | .stldMeIpad | .stldMeOpad | .stldMeZero | .habs _ _ | .capp | .fuse _ _ | .copy | .hdrv | .hfin | .hext _
  | .ctag _ | .tagout _ => .illegal

/-- `PEND` for a command word: the command's code, or 7 for a reserved word (R102). -/
def pendOfWord (w : Word) : Pend :=
  match decodeCmd w with
  | .ok i => pendOf i
  | .error _ => .illegal

/-- Command acceptance (R102). The verdict of the previous request is kept for reads while busy (log 10). -/
def State.accept (s : State) (w : Word) : State :=
  { s with pend := pendOfWord w, status := s.status.accepted, errcode := none, outlen := 0, pp := 0, plen := 0,
           plan := zeroPlan, phase := .setup, spOld := s.status.sp }

/-- `HostWriteReg(n, v)` (R100): discarded while busy (R63). -/
def State.hostWriteReg (s : State) (n : Nat) (v : Word) : State :=
  if s.status.busy then s
  else
    match n with
    | 0 => s.accept v
    | 3 => { s with cfg := v }
    | 4 => { s with keylen := v }
    | 5 => { s with authkeylen := v }
    | 6 => { s with aadlen := v }
    | 7 => { s with inlen := v }
    | _ => s

/-- `HostWriteByte(space, off, b)` (R101): discarded while busy, in `OUTBUF`, and at or beyond the size. -/
def State.hostWriteByte (s : State) (sp : Space) (off : Nat) (b : Byte) : State :=
  if s.status.busy then s
  else if sp = .outBuf then s
  else if capSize s.caps sp ≤ off then s
  else s.writeRange sp off [b]

/-- A host operation: a read leaves its answer in the host port's data register `rdata` (log 27); a write to `PLAN` is
discarded (R38, R101). -/
def State.hostOp (s : State) (op : HostOp) : State :=
  match op with
  | .readReg n => { (s.hostReadReg n).2 with rdata := (s.hostReadReg n).1 }
  | .writeReg n v => s.hostWriteReg n v
  | .readByte sp off => { (s.hostReadByte sp off).2 with rdata := (s.hostReadByte sp off).1.setWidth 32 }
  | .writeByte sp off b => s.hostWriteByte sp off b
  | .readPlan i => { (s.hostReadPlan i).2 with rdata := (s.hostReadPlan i).1 }
  | .writePlan _ _ => s

/-- `Reset` (R310): every piece of the spec's state takes its reset value (`10_state.md` R42); the model's inputs and
parameters stay, and the data buffers hold the free bytes of a new reset (log 19). -/
def State.platformReset (s : State) : State :=
  { State.reset with caps := s.caps, agenda := s.agenda, draws := s.draws, rdata := s.rdata, freeIx := s.freeIx,
                     resets := s.resets + 1 }

end Sys2Proof.Machine
end

