-- ==== Sys2Proof/Machine/Fetch.lean ====
section
/-! DEFINITION. Where the sequencer finds its next instruction (`spec/40_host_commands.md` R103, R108), and placing a word
there. -/

namespace Sys2Proof.Machine

open Sys2Proof

/-- What the sequencer's turn finds. -/
inductive Fetched where
  /-- An instruction to run. -/
  | run (i : Instr)
  /-- A reserved command word or plan word: `IllegalCommand` (R111, R210). -/
  | illegal
  /-- `BUSY = 0`: the sequencer takes no step (R11). -/
  | asleep
  /-- `BUSY = 1` and no step enabled: unreachable (log 18). -/
  | dead
deriving DecidableEq, Repr

/-- The dispatch of the setup step on `PEND` (R103). -/
def fetchPend : Pend → Fetched
  | .setkey => .run .setkey
  | .enc => .run .enc
  | .dec => .run .dec
  | .clrkey => .run .clrkey
  | .illegal => .illegal
  | .none => .dead

/-- The operation step's word `PLAN[PP]`, decoded (R108, R210; log 17). -/
def State.fetchPlan (s : State) : Fetched :=
  match decodePlan (s.planWord s.pp.toNat) with
  | .ok i => .run i
  | .error _ => .illegal

/-- The sequencer's next instruction (R11, R103, R108). -/
def State.fetch (s : State) : Fetched :=
  if !s.status.busy then .asleep
  else
    match s.phase with
    | .idle => .dead
    | .setup => fetchPend s.pend
    | .exec => s.fetchPlan

/-- The state whose sequencer runs a given 32-bit word next: a command word stands in `PEND` with the setup step enabled, a
plan word in `PLAN[PP]` with the operation step enabled; the sequencer moves next. A word that is both is a command (log 1,
log 2). -/
def State.placeWord (s : State) (w : Word) : State :=
  match decodeCmd w with
  | .ok i => { s with agenda := [], status := { s.status with busy := true }, phase := .setup, pend := pendOf i }
  | .error _ =>
    let pp : BitVec 5 := if s.pp.toNat < 16 then s.pp else 0
    { s with agenda := [], status := { s.status with busy := true }, phase := .exec, pp := pp,
             plan := s.plan.setIfInBounds pp.toNat w, plen := if pp.toNat < s.plen.toNat then s.plen else 16 }

end Sys2Proof.Machine
end

