-- ==== Sys2Proof/Machine/Step.lean ====
section
/-! DEFINITION. One step of the machine: the next event of the agenda, or the sequencer's turn (`spec/00_scope.md` R11). -/

namespace Sys2Proof.Machine

open Sys2Proof

/-- A turn of the sequencer (R11): the setup step (R103) or the operation step (R108) when one is enabled; nothing while
idle. -/
def sequencerTurn (s : State) : Host.Outcome State Fault Refusal :=
  match s.fetch with
  | .run i => exec i s
  | .illegal => illegalWord s
  | .asleep => .next s
  | .dead => .fault .deadPhase

/-- One step (U12; log 3): the agenda's first event happens and leaves the agenda; with an empty agenda the sequencer moves. -/
def step (s : State) : Host.Outcome State Fault Refusal :=
  match s.agenda with
  | [] => sequencerTurn s
  | .sequencer :: rest => sequencerTurn { s with agenda := rest }
  | .host op :: rest => .next (State.hostOp { s with agenda := rest } op)
  | .reset :: rest => .next (State.platformReset { s with agenda := rest })

/-- The state whose very next step fetches and runs the word `w` (log 2). -/
def State.withFetchWord (s : State) (nbits w : Nat) : State := s.placeWord (BitVec.ofNat 32 (w % 2 ^ nbits))

end Sys2Proof.Machine
end

