-- ==== Sys2Proof/Safety.lean ====
section
/-! DEFINITION. What counts as a good state and a good run of AEAD-SEQ, in the words the claims use: the scrubbed scratch
(`spec/10_state.md` R34), the legal context (`spec/41_key_schedule.md` R135), the sequencing state (R33, R40), and runs of the
sequencer alone (`spec/40_host_commands.md` R112). -/

namespace Sys2Proof.Safety

open Sys2Proof Sys2Proof.Machine

/-- An outcome that goes on. -/
def goesOn : Out → Bool
  | .next _ => true
  | .fault _ => false
  | .refused _ => false

/-- The state an outcome goes on with, if it does. -/
def nextState : Out → Option State
  | .next s => some s
  | .fault _ => none
  | .refused _ => none

/-- Every request-scoped register but `PLAN`, `PP`, `PLEN` and `SP` holds zero (R34). -/
def Scrubbed (s : State) : Prop :=
  s.dir = .encrypt ∧ s.cryptlen = 0 ∧ s.aadeff = 0 ∧ s.a0len = 0 ∧ s.outw = false ∧ s.frame = zeroFrame ∧ s.ce = zeroCe ∧
    s.me = zeroMe ∧ s.tags = zeroBytes 32 ∧ s.digs = zeroBytes 32 ∧ s.diglen = 0

/-- `BUSY`, `PHASE`, `PEND`, `PP` and `PLEN` agree (R33, R40, R102, R109), and the scratch is zero whenever no request is
being executed (R34). -/
def SeqOk (s : State) : Prop :=
  match s.phase with
  | .idle => s.status.busy = false ∧ s.pend = .none ∧ Scrubbed s
  | .setup => s.status.busy = true ∧ s.pend ≠ .none ∧ Scrubbed s
  | .exec => s.status.busy = true ∧ (s.pend = .enc ∨ s.pend = .dec) ∧ s.pp.toNat < s.plen.toNat ∧ s.plen.toNat ≤ 13

/-- The variant of `CTX.AUTHMAT` is the one `CTX.AUTH_MODE` selects (R31), and an ipad or opad state is a partial one of one
64-byte block (R128). -/
def MatOk (a : AuthMode) (m : AuthMat) : Prop :=
  match m with
  | .none => a = .none
  | .hmac ipad opad =>
    (a = .hmacSha1 ∨ a = .hmacSha256) ∧ ipad.fin = false ∧ opad.fin = false ∧ ipad.msg.length = 64 ∧ opad.msg.length = 64
  | .xcbc _ _ _ => a = .xcbc

/-- A context that `SETKEY` can build (R84, R85, R124, R125, R135). -/
def CtxLegal (c : Ctx) : Prop :=
  legalCombo c.cipherMode c.authMode c.family c.wrap = true ∧
    legalTagLen c.cipherMode c.authMode c.tagLen.toNat = true ∧
    encKeyLenOk c.family c.encKeyLen.toNat = true ∧ c.nonceLen.toNat = nonceLen c.wrap ∧ MatOk c.authMode c.authMat

/-- The context invariant of R135: no context means zeros, a context is a legal one. -/
def CtxOk (s : State) : Prop :=
  (s.status.ctxv = false → s.ctx = zeroCtx) ∧ (s.status.ctxv = true → CtxLegal s.ctx)

/-- `k` steps, stopping at a fault or a refusal. With an empty agenda every one of them is a turn of the sequencer. -/
def turns : (k : Nat) → State → Out
  | 0, s => .next s
  | k + 1, s =>
    match step s with
    | .next t => turns k t
    | .fault r => .fault r
    | .refused r => .refused r

/-- No failure draw is true (R252: an environment that draws false always). -/
def NoFailure (s : State) : Prop := ∀ b ∈ s.draws, b = false

/-- A command accepted and waiting for its setup step, with the sequencer to move (R102, R103). -/
def Accepted (s : State) (p : Pend) : Prop :=
  s.agenda = [] ∧ s.status.busy = true ∧ s.phase = .setup ∧ s.pend = p

/-! The tables of the key schedule as the spec prints them, for the statements about `SETKEY`. They are written from the rules,
not from the definitions `SETKEY` uses. -/

/-- A configuration word that `SETKEY` accepts, and the fields it gives: the positions and codes of R72 to R77, no reserved bit
(R86), a row of R84's table and a tag length of R85's. -/
def CfgGives (w : Word) (c : CfgFields) : Prop :=
  w.toNat < 2 ^ 14
    ∧ w.toNat % 4 = (match c.cipherMode with | .cbc => 0 | .ctr => 1 | .ccm => 2 | .gctr => 3)
    ∧ w.toNat / 4 % 4 = (match c.authMode with | .hmacSha1 => 0 | .hmacSha256 => 1 | .xcbc => 2 | .none => 3)
    ∧ w.toNat / 16 % 2 = (match c.family with | .aes => 0 | .tdes => 1)
    ∧ w.toNat / 32 % 8
        = (match c.wrap with | .none => 0 | .rfc3686 => 1 | .rfc4309 => 2 | .rfc4106 => 3 | .rfc4543 => 4)
    ∧ w.toNat / 256 % 64 = c.tagLen.toNat
    ∧ (match c.cipherMode with
        | .cbc => c.authMode ≠ .none ∧ c.wrap = .none
        | .ctr => c.authMode ≠ .none ∧ c.family = .aes ∧ (c.wrap = .none ∨ c.wrap = .rfc3686)
        | .ccm => c.authMode = .none ∧ c.family = .aes ∧ (c.wrap = .none ∨ c.wrap = .rfc4309)
        | .gctr => c.authMode = .none ∧ c.family = .aes ∧ (c.wrap = .none ∨ c.wrap = .rfc4106 ∨ c.wrap = .rfc4543))
    ∧ (c.authMode = .hmacSha1 → 1 ≤ c.tagLen.toNat ∧ c.tagLen.toNat ≤ 20)
    ∧ (c.authMode = .hmacSha256 → 1 ≤ c.tagLen.toNat ∧ c.tagLen.toNat ≤ 32)
    ∧ (c.authMode = .xcbc → 1 ≤ c.tagLen.toNat ∧ c.tagLen.toNat ≤ 16)
    ∧ (c.cipherMode = .ccm → c.tagLen.toNat ∈ [4, 6, 8, 10, 12, 14, 16])
    ∧ (c.cipherMode = .gctr → 1 ≤ c.tagLen.toNat ∧ c.tagLen.toNat ≤ 16)

/-- How many trailing bytes of the encryption-key part are the nonce (R124). -/
def nonceBytes : Wrap → Nat
  | .none => 0
  | .rfc3686 => 4
  | .rfc4309 => 3
  | .rfc4106 => 4
  | .rfc4543 => 4

/-- Key lengths that `SETKEY` accepts (R121, R122, R124 to R126): `k` is `KEYLEN`, `a` is `AUTHKEYLEN`, and what is left of the
blob after the authentication key and the nonce is a key of the family. -/
def KeyLensOk (keyCap : Nat) (c : CfgFields) (k a : Nat) : Prop :=
  k ≤ keyCap ∧ a + nonceBytes c.wrap ≤ k
    ∧ (c.family = .aes → k - a - nonceBytes c.wrap ∈ [16, 24, 32])
    ∧ (c.family = .tdes → k - a - nonceBytes c.wrap = 24)
    ∧ (c.authMode = .xcbc → a ∈ [16, 24, 32]) ∧ (c.authMode = .none → a = 0)

/-! Runs of host operations, and what the host may learn (`spec/60_exceptions.md` R300). -/

/-- The host performs operations one after another while the sequencer rests. -/
def hostRun (s : State) (ops : List HostOp) : State := ops.foldl State.hostOp s

/-- The state with the secrets among what R300 hides blanked out: the key bytes, nonce and derived material of the context,
`KEYBUF`, the frame, engine and scratch registers, and the request latches. -/
def visible (s : State) : State :=
  { s with ctx := { s.ctx with encKey := zeroBytes 32, nonce := zeroBytes 4, authMat := .none },
           mem := { s.mem with key := [] },
           dir := .encrypt, cryptlen := 0, aadeff := 0, a0len := 0, outw := false, frame := zeroFrame, ce := zeroCe,
           me := zeroMe, tags := zeroBytes 32, digs := zeroBytes 32, diglen := 0 }

/-- The state with everything R300's last row and its `KEYBUF` row hide blanked out: also the mode, tag length and key lengths
of the context and the internal latches `PHASE` and `PEND`. The model's own `rdata` and `spOld` (log 27, log 10) are blanked
too. -/
def concealed (s : State) : State :=
  { visible s with ctx := zeroCtx, phase := .idle, pend := .none, rdata := 0, spOld := false }

/-! What a whole request computes (`spec/45_plan_ops.md` R226, `spec/43_frame_builder.md` R165, R175, R178, R180). `iv` is
`IVBUF[0..16)`, `aad` is `AADBUF[0..AADEFF)`. -/

/-- `Enc` and `Dec` of R226: the payload transformed in the context's cipher mode with its IV block. -/
def cipherRef (c : Ctx) (d : Dir) (iv x : List Byte) : List Byte :=
  match c.cipherMode with
  | .cbc => blockCipherApply c.family c.keyBytes .cbc d (cbcCiv c iv) x
  | .ctr => blockCipherApply c.family c.keyBytes .ctr d (ctrCiv c iv) x
  | .ccm => blockCipherApply c.family c.keyBytes .ctr d (ctr0p1 (ccmCtr0 (ccmIvx c iv))) x
  | .gctr => if c.wrap = .rfc4543 then x else blockCipherApply c.family c.keyBytes .gctr d (toBlock (gcmNonce c iv ++ be 4 2)) x

/-- The MAC of HMAC and XCBC over a message (R128, R129, R226(a), R226(b)). -/
def authRef (c : Ctx) (m : List Byte) : List Byte :=
  match c.authMat, hashAlg c.authMode with
  | .hmac ipad opad, some alg => hashDigest alg (opad.msg ++ hashDigest alg (ipad.msg ++ m))
  | .xcbc k1 k2 k3, _ => (xcbcMac k1.toList k2.toList k3.toList m).toList
  | _, _ => []

/-- The CBC-MAC input of CCM (R165). -/
def ccmMacInput (c : Ctx) (iv aad plain : List Byte) : List Byte :=
  (ccmB0 (ccmIvx c iv) c.tagLen.toNat aad.length plain.length).toList
    ++ (if aad = [] then [] else ccmA0 aad.length ++ aad ++ zeros (pad16 ((ccmA0 aad.length).length + aad.length)))
    ++ (plain ++ zeros (pad16 plain.length))

/-- The GHASH input of GCM (R175) and of RFC 4543 (R178). -/
def gcmMacInput (c : Ctx) (iv aad cipher : List Byte) : List Byte :=
  if c.wrap = .rfc4543 then
    aad ++ iv.take 8 ++ cipher ++ zeros (pad16 (aad.length + 8 + cipher.length))
      ++ (gcmLen c cipher.length aad.length).toList
  else
    aad ++ zeros (pad16 aad.length) ++ (cipher ++ zeros (pad16 cipher.length)) ++ (gcmLen c cipher.length aad.length).toList

/-- The tag of a request before truncation (R226): over the ciphertext in every mode but CCM, there over the plaintext. -/
def tagRef (c : Ctx) (iv aad plain cipher : List Byte) : List Byte :=
  match c.cipherMode with
  | .cbc | .ctr => authRef c (aad ++ cipher)
  | .ccm =>
    xorBytes (cbcMac c.keyBytes (ccmMacInput c iv aad plain)).toList
      (aesEnc c.keyBytes (ccmCtr0 (ccmIvx c iv))).toList
  | .gctr =>
    xorBytes (ghash (aesEnc c.keyBytes (zeroBytes 16)) (gcmMacInput c iv aad cipher)).toList
      (aesEnc c.keyBytes (toBlock (gcmNonce c iv ++ be 4 1))).toList

end Sys2Proof.Safety
end

