-- ==== Sys2Proof/Certificates/Slice0/Obligations.lean ====
section
/-! DEFINITION. The statements about AEAD-SEQ for the provers. Each docstring names the rule of `spec/` it formalises. -/

open Sys2Proof Sys2Proof.Machine Sys2Proof.Safety

/-! ### Encoding -/

/-- Decoding the word of a well-formed instruction, in that instruction's format, gives the instruction (R71, R80 to R82). -/
def Obligations.DecodeEncode : Prop :=
  ∀ i : Instr, i.wellFormed = true → decode i.format (encode i) = .ok i

/-- Every word has one meaning per format: a word that decodes is the word of the well-formed instruction it decodes to. -/
def Obligations.EncodeDecode : Prop :=
  ∀ (fmt : Format) (w : Word) (i : Instr),
    decode fmt w = .ok i → i.wellFormed = true ∧ i.format = fmt ∧ encode i = w

/-- Exactly the plan words that R83 does not reserve decode. -/
def Obligations.ReservedPlanWords : Prop :=
  ∀ w : Word,
    let f := fieldsOf w
    let selListed : Prop :=
      match f.opc.toNat with
      | 1 => if f.eng = 0 then f.sel.toNat ≤ 3 else 2 ≤ f.sel.toNat ∧ f.sel.toNat ≤ 4
      | 2 => f.sel.toNat ≤ 2
      | 3 => f.sel.toNat ≤ 7
      | 9 => f.sel.toNat ≤ 1
      | 10 => f.sel.toNat ≤ 1
      | _ => f.sel = 0
    (∃ i, decodePlan w = .ok i) ↔
      (1 ≤ f.opc.toNat ∧ f.opc.toNat ≤ 11 ∧ selListed ∧ (f.eng = 1 → f.opc = 1 ∨ f.opc = 2)
        ∧ (f.pad ≠ 0 → f.opc = 3 ∨ f.opc = 5) ∧ (f.hsel = 1 → f.opc = 5)
        ∧ (f.dir = 1 → (f.opc = 1 ∧ f.eng = 0) ∨ f.opc = 11) ∧ f.rsv = 0)

/-- A few words written out in R88, R209 and the command rules decode to the instructions they stand for. -/
def Obligations.SampleWords : Prop :=
  decode .cmdw 0x00000001 = .ok .setkey ∧ decode .cmdw 0x00000004 = .ok .clrkey
    ∧ decode .opw 0x00004041 = .ok (.keyldCe .ctr .decrypt) ∧ decode .opw 0x00000091 = .ok .keyldMeGhash
    ∧ decode .opw 0x00000032 = .ok .stldMeOpad ∧ decode .opw 0x00000C03 = .ok (.habs .aad 6)
    ∧ decode .opw 0x00003205 = .ok (.fuse .output 9) ∧ decode .opw 0x0000002A = .ok (.ctag .j1)
    ∧ decode .opw 0x0000400B = .ok (.tagout .cmp)

/-! ### The step -/

/-- The operation step: with the sequencer to move in `EXEC`, the step runs the instruction `PLAN[PP]` decodes to; the event
leaves the agenda and nothing else happens around it (R108, R210). -/
def Obligations.StepRunsPlanWord : Prop :=
  ∀ (s : State) (i : Instr) (rest : List Event),
    (s.agenda = .sequencer :: rest ∨ (s.agenda = [] ∧ rest = [])) →
      s.status.busy = true → s.phase = .exec → decode .opw (s.planWord s.pp.toNat) = .ok i →
        step s = exec i { s with agenda := rest }

/-- The setup step: with the sequencer to move in `SETUP`, the step runs the accepted command (R103). The command words carry
no operand, so `PEND` stands for the word. -/
def Obligations.StepRunsCommand : Prop :=
  ∀ (s : State) (w : Word) (i : Instr) (rest : List Event),
    (s.agenda = .sequencer :: rest ∨ (s.agenda = [] ∧ rest = [])) →
      s.status.busy = true → s.phase = .setup → decode .cmdw w = .ok i → s.pend = pendOfWord w →
        step s = exec i { s with agenda := rest }

/-- A reserved command word or plan word raises `IllegalCommand` (R111, R210). -/
def Obligations.StepReservedWord : Prop :=
  ∀ (s : State) (rest : List Event),
    (s.agenda = .sequencer :: rest ∨ (s.agenda = [] ∧ rest = [])) → s.status.busy = true →
      ((s.phase = .setup ∧ s.pend = .illegal) ∨
        (s.phase = .exec ∧ ∀ i, decode .opw (s.planWord s.pp.toNat) ≠ .ok i)) →
      step s = .next (State.raise { s with agenda := rest } .illegalCommand)

/-- While idle the sequencer takes no step (R11, R109); a host operation and a reset happen when the agenda says so. How
events interleave is the model's choice (log 3). -/
def Obligations.StepTakesEvents : Prop :=
  ∀ (s : State) (rest : List Event),
    (s.agenda = [] → s.status.busy = false → step s = .next s)
      ∧ (s.agenda = .sequencer :: rest → s.status.busy = false → step s = .next { s with agenda := rest })
      ∧ (∀ op, s.agenda = .host op :: rest → step s = .next (State.hostOp { s with agenda := rest } op))
      ∧ (s.agenda = .reset :: rest → step s = .next (State.platformReset { s with agenda := rest }))

/-! ### The host's operations -/

/-- Command acceptance (R102): the registers it writes, and every other part of the state unchanged; while busy a `CMD` write
has no effect. -/
def Obligations.Acceptance : Prop :=
  ∀ (s : State) (w : Word),
    (s.status.busy = true → s.hostOp (.writeReg 0 w) = s)
      ∧ (s.status.busy = false →
          let t := s.hostOp (.writeReg 0 w)
          t.pend.code = (if w.toNat / 16 = 0 ∧ 1 ≤ w.toNat % 16 ∧ w.toNat % 16 ≤ 4 then w.setWidth 3 else 7)
            ∧ t.status = { busy := true, done := false, err := false, ctxv := s.status.ctxv, sp := false }
            ∧ t.errcode = none ∧ t.outlen = 0 ∧ t.pp = 0 ∧ t.plen = 0 ∧ (∀ i, t.planWord i = 0) ∧ t.phase = .setup
            ∧ t = { s with pend := t.pend, status := t.status, errcode := t.errcode, outlen := t.outlen, pp := t.pp,
                           plen := t.plen, plan := t.plan, phase := t.phase, spOld := t.spOld })

/-- Host register writes (R100): a read-write register takes all 32 bits, nothing else changes; a write to a read-only or
nonexistent register, and every write while busy (R63), changes nothing. -/
def Obligations.HostRegisterWrites : Prop :=
  ∀ (s : State) (n : Nat) (v : Word),
    (s.status.busy = true → s.hostOp (.writeReg n v) = s)
      ∧ (s.status.busy = false →
          (n = 3 → s.hostOp (.writeReg n v) = { s with cfg := v })
            ∧ (n = 4 → s.hostOp (.writeReg n v) = { s with keylen := v })
            ∧ (n = 5 → s.hostOp (.writeReg n v) = { s with authkeylen := v })
            ∧ (n = 6 → s.hostOp (.writeReg n v) = { s with aadlen := v })
            ∧ (n = 7 → s.hostOp (.writeReg n v) = { s with inlen := v })
            ∧ (n = 1 ∨ n = 2 ∨ 8 ≤ n → s.hostOp (.writeReg n v) = s))

/-- Host register reads (R21, R63(b), R78, R79, R100). While idle: the register's value, with R79's code for the error, and 0
for `CMD` and for a number that does not exist; the answer stands in `rdata` and nothing else changes. `STATUS` while busy:
`BUSY`, `DONE`, `ERR` and `CTXV` exact, `SP` the previous verdict or the current one. Which verdict is the current one before
the setup step ran is the model's reading (log 10); the read also uses up a free value (log 9). -/
def Obligations.HostRegisterReads : Prop :=
  ∀ (s : State) (n : Nat) (t : State), t = s.hostOp (.readReg n) →
    (s.status.busy = false →
      t = { s with rdata := t.rdata }
        ∧ (n = 1 → t.rdata.getLsbD 0 = false ∧ t.rdata.getLsbD 1 = s.status.done ∧ t.rdata.getLsbD 2 = s.status.err
            ∧ t.rdata.getLsbD 3 = s.status.ctxv ∧ t.rdata.getLsbD 4 = s.status.sp ∧ t.rdata.toNat < 32)
        ∧ (n = 2 → t.rdata.toNat =
            (match s.errcode with
              | none => 0
              | some .invalidKeyLength => 1
              | some .keyDerivationFailed => 2
              | some .invalidLength => 3
              | some .invalidIvFormat => 4
              | some .invalidAssociatedDataLength => 5
              | some .lengthOverflow => 6
              | some .authenticationFailed => 7
              | some .engineError => 8
              | some .illegalCommand => 9))
        ∧ (n = 3 → t.rdata = s.cfg) ∧ (n = 4 → t.rdata = s.keylen) ∧ (n = 5 → t.rdata = s.authkeylen)
        ∧ (n = 6 → t.rdata = s.aadlen) ∧ (n = 7 → t.rdata = s.inlen) ∧ (n = 8 → t.rdata = s.outlen)
        ∧ (n = 9 → t.rdata.toNat = s.pp.toNat) ∧ (n = 10 → t.rdata.toNat = s.plen.toNat)
        ∧ (n = 0 ∨ 11 ≤ n → t.rdata = 0))
      ∧ (s.status.busy = true → n = 1 →
          t = { s with rdata := t.rdata, freeIx := s.freeIx + 1 }
            ∧ t.rdata.getLsbD 0 = true ∧ t.rdata.getLsbD 1 = s.status.done ∧ t.rdata.getLsbD 2 = s.status.err
            ∧ t.rdata.getLsbD 3 = s.status.ctxv ∧ t.rdata.toNat < 32
            ∧ (t.rdata.getLsbD 4 = s.spOld ∨ t.rdata.getLsbD 4 = s.newVerdict)
            ∧ (s.phase = .exec → t.rdata.getLsbD 4 = s.spOld ∨ t.rdata.getLsbD 4 = s.status.sp))

/-- Host buffer operations (R101, R52, R63): a byte written while idle reads back, every other byte of every space reads as
before, and a write that R101 discards, one to `PLAN` (R38) among them, changes nothing. Reading goes through the model's read of
one byte. `KEYBUF`, offsets at or beyond a size and plan words from 16 on read 0, idle or busy: that R63's unspecified value does
not cover them is the model's reading (log 20). -/
def Obligations.HostBytes : Prop :=
  ∀ (s : State) (sp : Space) (off : Nat) (b : Byte),
    (s.status.busy = true ∨ sp = .outBuf ∨ capSize s.caps sp ≤ off → s.hostOp (.writeByte sp off b) = s)
      ∧ (s.status.busy = false → sp ≠ .outBuf → off < capSize s.caps sp →
          let t := s.hostOp (.writeByte sp off b)
          t.readByte sp off = b ∧ t = { s with mem := t.mem }
            ∧ ∀ sp' off', ¬ (sp' = sp ∧ off' = off) → t.readByte sp' off' = s.readByte sp' off')
      ∧ (s.status.busy = false →
          (s.hostOp (.readByte sp off)).rdata
            = (if sp = .keyBuf ∨ capSize s.caps sp ≤ off then 0 else (s.readByte sp off).setWidth 32)
            ∧ ∀ i, (s.hostOp (.readPlan i)).rdata = (if h : i < 16 then s.plan[i] else 0))
      ∧ (∀ i w, s.hostOp (.writePlan i w) = s)
      ∧ (sp = .keyBuf ∨ capSize s.caps sp ≤ off → (s.hostOp (.readByte sp off)).rdata = 0)
      ∧ (∀ i, 16 ≤ i → (s.hostOp (.readPlan i)).rdata = 0)

/-- No read has a side effect (R58): every read, busy or idle, leaves everything but the model's own host-port fields `rdata`
and `freeIx` (log 9, log 27) unchanged. -/
def Obligations.ReadsHaveNoEffect : Prop :=
  ∀ (s : State) (op : HostOp) (t : State),
    ((∃ n, op = .readReg n) ∨ (∃ sp off, op = .readByte sp off) ∨ (∃ i, op = .readPlan i)) → t = s.hostOp op →
      t = { s with rdata := t.rdata, freeIx := t.freeIx }

/-- What the host can learn (R300), under every sequence of host operations. Two machines that differ only in key bytes,
nonce, derived material, `KEYBUF`, frame, engines, scratch and request latches answer alike. Two machines that differ in
anything R300 hides, the context's modes and lengths, `PHASE` and `PEND` included, stay so, and every read of them answers
alike but for the bit `SP` of a `STATUS` read while busy, which shows a verdict (R63(b); the free bit of log 10). -/
def Obligations.SecretsInvisible : Prop :=
  ∀ (s t : State) (ops : List HostOp),
    (visible s = visible t →
      visible (hostRun s ops) = visible (hostRun t ops) ∧ (hostRun s ops).rdata = (hostRun t ops).rdata)
    ∧ (concealed s = concealed t →
        concealed (hostRun s ops) = concealed (hostRun t ops)
          ∧ ∀ op : HostOp, (∃ n, op = .readReg n) ∨ (∃ sp off, op = .readByte sp off) ∨ (∃ i, op = .readPlan i) →
              let a := ((hostRun s ops).hostOp op).rdata
              let b := ((hostRun t ops).hostOp op).rdata
              (op ≠ .readReg 1 ∨ (hostRun s ops).status.busy = false → a = b)
                ∧ ∀ j, j ≠ 4 → a.getLsbD j = b.getLsbD j)

/-! ### The commands -/

/-- A successful `SETKEY` (R104, R121 to R135): when no context exists, the configuration is one the tables of R84 and R85
accept, the lengths are and no primitive fails, the command completes with the context the key blob gives: R127's key block
under the two pads of R128, not finalized; R130's three subkeys; nothing without authentication (R131). -/
def Obligations.SetkeyCreates : Prop :=
  ∀ (s : State) (c : CfgFields),
    let n := nonceBytes c.wrap
    let k := s.keylen.toNat
    let a := s.authkeylen.toNat
    let ak := s.readRange .keyBuf 0 a
    let pads (hash : List Byte → List Byte) (dlen : Nat) : AuthMat :=
      let k0 := if 64 < a then hash ak ++ zeros (64 - dlen) else ak ++ zeros (64 - a)
      .hmac { msg := k0.map (· ^^^ 0x36), fin := false } { msg := k0.map (· ^^^ 0x5C), fin := false }
    let subkey (b : Byte) : Block := aesEnc ak (toBlock (List.replicate 16 b))
    s.status.ctxv = false → CfgGives s.cfg c → NoFailure s → KeyLensOk s.caps.keyCap c k a →
        ∃ t, exec .setkey s = .next t
          ∧ t.status = { busy := false, done := true, err := false, ctxv := true, sp := s.status.sp }
          ∧ t.errcode = none
          ∧ t.ctx.cipherMode = c.cipherMode ∧ t.ctx.authMode = c.authMode ∧ t.ctx.family = c.family
          ∧ t.ctx.wrap = c.wrap ∧ t.ctx.tagLen = c.tagLen
          ∧ t.ctx.encKeyLen.toNat = k - a - n
          ∧ t.ctx.encKey.toList = s.readRange .keyBuf a (k - a - n) ++ zeros (32 - (k - a - n))
          ∧ t.ctx.nonceLen.toNat = n
          ∧ t.ctx.nonce.toList = s.readRange .keyBuf (k - n) n ++ zeros (4 - n)
          ∧ (c.authMode = .hmacSha1 → t.ctx.authMat = pads sha1 20)
          ∧ (c.authMode = .hmacSha256 → t.ctx.authMat = pads sha256 32)
          ∧ (c.authMode = .xcbc → t.ctx.authMat = .xcbc (subkey 0x01) (subkey 0x02) (subkey 0x03))
          ∧ (c.authMode = .none → t.ctx.authMat = .none)
          ∧ Scrubbed t ∧ t.phase = .idle ∧ t.pend = .none
          ∧ (∀ sp off, t.readByte sp off = if sp = .keyBuf then 0 else s.readByte sp off)
          ∧ t.outlen = s.outlen ∧ t.plan = s.plan ∧ t.pp = s.pp ∧ t.plen = s.plen ∧ t.cfg = s.cfg
          ∧ t.keylen = s.keylen ∧ t.authkeylen = s.authkeylen ∧ t.aadlen = s.aadlen ∧ t.inlen = s.inlen

/-- A refused `SETKEY` (R104, R121, R135, R291): the error of the first failing check, no context created or changed. A
configuration that no row of R84's table with a tag length of R85's gives is refused (R86). -/
def Obligations.SetkeyRefused : Prop :=
  ∀ (s : State),
    let k := s.keylen.toNat
    let a := s.authkeylen.toNat
    let failsWith (e : CmdError) : Prop :=
      ∃ t, exec .setkey s = .next t ∧ t.errcode = some e ∧ t.ctx = s.ctx ∧ t.outlen = 0
        ∧ t.status = { busy := false, done := true, err := true, ctxv := s.status.ctxv, sp := s.status.sp }
        ∧ t.phase = .idle ∧ t.pend = .none
    (s.status.ctxv = true → failsWith .illegalCommand)
      ∧ (s.status.ctxv = false → (∀ c, ¬ CfgGives s.cfg c) → failsWith .illegalCommand)
      ∧ (∀ c, s.status.ctxv = false → CfgGives s.cfg c → ¬ KeyLensOk s.caps.keyCap c k a → failsWith .invalidKeyLength)

/-- A primitive failing inside `SETKEY` (R132): `KeyDerivationFailed`, no context. That a long HMAC key makes three calls, any
other HMAC key two and XCBC three, one draw each, is the model's choice (log 8). -/
def Obligations.SetkeyDerivationFails : Prop :=
  ∀ (s : State) (c : CfgFields),
    let a := s.authkeylen.toNat
    let calls := match c.authMode with
      | .hmacSha1 | .hmacSha256 => if 64 < a then 3 else 2
      | .xcbc => 3
      | .none => 0
    s.status.ctxv = false → CfgGives s.cfg c → KeyLensOk s.caps.keyCap c s.keylen.toNat a →
      (∃ j, j < calls ∧ s.draws[j]? = some true) →
        ∃ t, exec .setkey s = .next t ∧ t.errcode = some .keyDerivationFailed ∧ t.ctx = s.ctx
          ∧ t.status = { busy := false, done := true, err := true, ctxv := false, sp := s.status.sp }

/-- `KEYBUF` zeroization (R136): every `SETKEY`, whatever its outcome, and every `CLRKEY` leaves zero in all of `KEYBUF`. -/
def Obligations.KeyBufZeroized : Prop :=
  ∀ (i : Instr) (s t : State), i = .setkey ∨ i = .clrkey → exec i s = .next t →
    ∀ off, t.readByte .keyBuf off = 0

/-- `CLRKEY` (R110): always succeeds; the context and `KEYBUF` become zero; `IVBUF`, `AADBUF`, `INBUF`, `OUTBUF`, `CFG` and the
rest stay. -/
def Obligations.ClrkeyDestroys : Prop :=
  ∀ s : State, ∃ t, exec .clrkey s = .next t
    ∧ t.ctx = zeroCtx ∧ t.ctx.authMat = .none
    ∧ t.status = { busy := false, done := true, err := false, ctxv := false, sp := s.status.sp }
    ∧ t.errcode = none ∧ t.phase = .idle ∧ t.pend = .none ∧ Scrubbed t
    ∧ (∀ sp off, t.readByte sp off = if sp = .keyBuf then 0 else s.readByte sp off)
    ∧ t.cfg = s.cfg ∧ t.keylen = s.keylen ∧ t.authkeylen = s.authkeylen ∧ t.aadlen = s.aadlen ∧ t.inlen = s.inlen
    ∧ t.outlen = s.outlen ∧ t.plan = s.plan ∧ t.pp = s.pp ∧ t.plen = s.plen

/-- The setup step of `ENC` and `DEC` (R107): with a context, when the Mode Selector and the Frame Builder accept, the latches,
the frame and the plan are written and execution begins; no buffer changes and no primitive is called. -/
def Obligations.RequestSetup : Prop :=
  ∀ (s : State) (d : Dir) (v : Verdict) (f : Frame) (a0len : BitVec 3),
    s.status.ctxv = true → modeSelect s.caps s.ctx d s.inlen.toNat s.aadlen.toNat = .ok v →
      frameBuild s.ctx (s.readRange .ivBuf 0 16) v.cryptlen v.aadeff = .ok (f, a0len) →
        let plan := planGen s.ctx d v.sp v.cryptlen v.aadeff a0len.toNat
        exec (match d with | .encrypt => .enc | .decrypt => .dec) s
          = .next { s with dir := d, cryptlen := BitVec.ofNat 32 v.cryptlen, aadeff := BitVec.ofNat 32 v.aadeff,
                           status := { s.status with sp := v.sp }, frame := f, a0len := a0len,
                           plan := planWords plan, plen := BitVec.ofNat 5 plan.length, pp := 0, outw := false,
                           phase := .exec }

/-- A refused request (R105 to R107, R290, R292): the first failing check decides the error; no primitive is called, no byte of
any buffer is written, the context and the plan stay, and the verdict is visible exactly when the Frame Builder refused. -/
def Obligations.RequestRefused : Prop :=
  ∀ (s : State) (d : Dir) (e : CmdError), s.phase = .setup →
    let mode := modeSelect s.caps s.ctx d s.inlen.toNat s.aadlen.toNat
    let failsWith (e : CmdError) (sp : Bool) : Prop :=
      ∃ t, exec (match d with | .encrypt => .enc | .decrypt => .dec) s = .next t
        ∧ t.errcode = some e ∧ t.outlen = 0 ∧ Scrubbed t ∧ t.phase = .idle ∧ t.pend = .none
        ∧ t.status = { busy := false, done := true, err := true, ctxv := s.status.ctxv, sp := sp }
        ∧ t.ctx = s.ctx ∧ t.draws = s.draws ∧ t.plan = s.plan ∧ t.pp = s.pp ∧ t.plen = s.plen
        ∧ ∀ space off, t.readByte space off = s.readByte space off
    (s.status.ctxv = false → failsWith .illegalCommand s.status.sp)
      ∧ (s.status.ctxv = true → mode = .error e → failsWith e s.status.sp)
      ∧ (∀ v, s.status.ctxv = true → mode = .ok v →
          frameBuild s.ctx (s.readRange .ivBuf 0 16) v.cryptlen v.aadeff = .error e → failsWith e v.sp)

/-! ### Mode Selector and Frame Builder -/

/-- The Mode Selector (R140 to R146): the checks in order, the first failing one deciding the error, and the verdict. -/
def Obligations.ModeSelect : Prop :=
  ∀ (caps : Caps) (c : Ctx) (d : Dir) (inlen aadlen : Nat),
    let t := c.tagLen.toNat
    let cryptlen := match d with | .encrypt => inlen | .decrypt => inlen - t
    let wrapped := c.wrap = .rfc4309 ∨ c.wrap = .rfc4106 ∨ c.wrap = .rfc4543
    let short := d = .decrypt ∧ inlen < t
    let big := caps.bufCap < inlen ∨ caps.aadCap < aadlen ∨ (d = .encrypt ∧ caps.bufCap < inlen + t)
    let ragged := c.cipherMode = .cbc ∧ ¬ (match c.family with | .aes => 16 | .tdes => 8) ∣ cryptlen
    let oddAad := wrapped ∧ aadlen ≠ 16 ∧ aadlen ≠ 20
    let r := modeSelect caps c d inlen aadlen
    (short ∨ big ∨ ragged → r = .error .invalidLength)
      ∧ (¬ (short ∨ big ∨ ragged) → oddAad → r = .error .invalidAssociatedDataLength)
      ∧ (¬ (short ∨ big ∨ ragged) → ¬ oddAad →
          ∃ v, r = .ok v ∧ v.cryptlen = cryptlen ∧ (wrapped → v.aadeff = aadlen - 8) ∧ (¬ wrapped → v.aadeff = aadlen)
            ∧ v.sp = singlePass c v.cryptlen v.aadeff)

/-- The single-pass verdict: CCM and GCM always (R147), CBC and CTR by alignment (R148), RFC 4543 never (R149). -/
def Obligations.SinglePassVerdict : Prop :=
  ∀ (c : Ctx) (cryptlen aadeff : Nat), legalCombo c.cipherMode c.authMode c.family c.wrap = true →
    (c.cipherMode = .ccm → singlePass c cryptlen aadeff = true)
      ∧ (c.cipherMode = .gctr → c.wrap ≠ .rfc4543 → singlePass c cryptlen aadeff = true)
      ∧ (c.cipherMode = .cbc ∨ c.cipherMode = .ctr →
          (singlePass c cryptlen aadeff = true ↔ 4 ∣ aadeff ∧ (c.cipherMode ≠ .ctr ∨ 4 ∣ cryptlen)))
      ∧ (c.wrap = .rfc4543 → singlePass c cryptlen aadeff = false)

/-- The CCM frame (R160 to R164): `B0` and `CTR0` share the nonce area; `B0` ends with the payload length, `CTR0` with a zero
counter, and `CTR0P1` is `CTR0 + 1`. A wrapper of another mode counts as `NONE` (log 28). -/
def Obligations.CcmFrame : Prop :=
  ∀ (c : Ctx) (iv : List Byte) (cryptlen aadeff : Nat) (f : Frame) (a0len : BitVec 3),
    c.cipherMode = .ccm → legalTagLen .ccm c.authMode c.tagLen.toNat = true → iv.length = 16 →
      cryptlen < 2 ^ 32 → aadeff < 2 ^ 32 → frameBuild c iv cryptlen aadeff = .ok (f, a0len) →
        let l := f.ivx[0].toNat + 1
        2 ≤ l ∧ l ≤ 8
          ∧ f.b0[0].toNat = (if 0 < aadeff then 64 else 0) + (c.tagLen.toNat - 2) / 2 * 8 + (l - 1)
          ∧ slice f.b0.toList 1 (16 - l) = slice f.ivx.toList 1 (16 - l)
          ∧ beVal (slice f.b0.toList (16 - l) 16) = cryptlen
          ∧ f.ctr0[0].toNat = l - 1
          ∧ slice f.ctr0.toList 1 (16 - l) = slice f.ivx.toList 1 (16 - l)
          ∧ slice f.ctr0.toList (16 - l) 16 = zeros l
          ∧ ctr0p1 f.ctr0 = inc128 f.ctr0
          ∧ (c.wrap = .rfc4309 → f.ivx.toList = [0x03] ++ c.nonce.toList.take 3 ++ iv.take 8 ++ zeros 4)
          ∧ (c.wrap ≠ .rfc4309 → f.ivx.toList = iv)

/-- When the CCM Frame Builder refuses (R161, R162; wrappers of other modes as in `CcmFrame`, log 28): the first IV byte outside 1 to 7, then a length that needs more than
`L` bytes. -/
def Obligations.CcmFrameErrors : Prop :=
  ∀ (c : Ctx) (iv : List Byte) (cryptlen aadeff : Nat) (b : Byte), c.cipherMode = .ccm → iv.head? = some b →
    let lp := if c.wrap = .rfc4309 then 3 else b.toNat
    (lp < 1 ∨ 7 < lp → frameBuild c iv cryptlen aadeff = .error .invalidIvFormat)
      ∧ (1 ≤ lp → lp ≤ 7 → lp + 1 < 4 ∧ 2 ^ (8 * (lp + 1)) ≤ cryptlen →
          frameBuild c iv cryptlen aadeff = .error .lengthOverflow)
      ∧ (1 ≤ lp → lp ≤ 7 → ¬ (lp + 1 < 4 ∧ 2 ^ (8 * (lp + 1)) ≤ cryptlen) →
          ∃ f a0len, frameBuild c iv cryptlen aadeff = .ok (f, a0len))

/-- The associated-data length header (R163): nothing, two bytes or six, and the number it holds; without associated data bit
6 of `B0` is clear. -/
def Obligations.CcmLengthHeader : Prop :=
  ∀ (c : Ctx) (iv : List Byte) (cryptlen aadeff : Nat) (f : Frame) (a0len : BitVec 3),
    c.cipherMode = .ccm → aadeff < 2 ^ 32 → frameBuild c iv cryptlen aadeff = .ok (f, a0len) →
      (aadeff = 0 → a0len = 0 ∧ f.a0.toList = zeros 16
          ∧ (legalTagLen .ccm c.authMode c.tagLen.toNat = true → f.b0[0].getLsbD 6 = false))
        ∧ (0 < aadeff → aadeff < 0xFF00 →
            a0len = 2 ∧ beVal (f.a0.toList.take 2) = aadeff ∧ f.a0.toList.drop 2 = zeros 14)
        ∧ (0xFF00 ≤ aadeff →
            a0len = 6 ∧ f.a0.toList.take 2 = [0xFF, 0xFE] ∧ beVal (slice f.a0.toList 2 6) = aadeff
              ∧ f.a0.toList.drop 6 = zeros 10)

/-- The GCM frame (R172 to R174, R176 to R178): the nonce, the counter blocks 1 and 2, the length block. A wrapper of another mode
counts as `NONE` (log 28). -/
def Obligations.GcmFrame : Prop :=
  ∀ (c : Ctx) (iv : List Byte) (cryptlen aadeff : Nat),
    c.cipherMode = .gctr → iv.length = 16 → cryptlen < 2 ^ 32 → aadeff < 2 ^ 32 →
      ∃ f, frameBuild c iv cryptlen aadeff = .ok (f, 0)
        ∧ (c.wrap = .rfc4106 ∨ c.wrap = .rfc4543 → f.ivx.toList = c.nonce.toList ++ iv.take 8 ++ zeros 4)
        ∧ (¬ (c.wrap = .rfc4106 ∨ c.wrap = .rfc4543) → f.ivx.toList = iv.take 12 ++ zeros 4)
        ∧ f.j1.toList = f.ivx.toList.take 12 ++ [0, 0, 0, 1]
        ∧ f.j2.toList = f.ivx.toList.take 12 ++ [0, 0, 0, 2] ∧ f.j2 = inc32 f.j1
        ∧ (c.wrap ≠ .rfc4543 → beVal (f.len.toList.take 8) = aadeff * 8 ∧ beVal (f.len.toList.drop 8) = cryptlen * 8)
        ∧ (c.wrap = .rfc4543 →
            beVal (f.len.toList.take 8) = (aadeff + 8 + cryptlen) * 8 ∧ f.len.toList.drop 8 = zeros 8)

/-- The frames of CBC and CTR (R157 to R159): only `F.CIV`, from the IV, or from nonce, IV and the counter 1. A wrapper of another
mode counts as `NONE` (log 28). -/
def Obligations.CivFrame : Prop :=
  ∀ (c : Ctx) (iv : List Byte) (cryptlen aadeff : Nat), iv.length = 16 → c.cipherMode = .cbc ∨ c.cipherMode = .ctr →
    ∃ f, frameBuild c iv cryptlen aadeff = .ok (f, 0) ∧ f = { zeroFrame with civ := f.civ }
      ∧ (c.cipherMode = .cbc → c.family = .aes → f.civ.toList = iv)
      ∧ (c.cipherMode = .cbc → c.family = .tdes → f.civ.toList = iv.take 8 ++ zeros 8)
      ∧ (c.cipherMode = .ctr → c.wrap ≠ .rfc3686 → f.civ.toList = iv)
      ∧ (c.cipherMode = .ctr → c.wrap = .rfc3686 → f.civ.toList = c.nonce.toList ++ iv.take 8 ++ [0, 0, 0, 1])

/-! ### Plans -/

/-- Plan lengths (R207): at least 7 and at most 13 words, per kind of plan the bounds of R207's table, and the minima a double
pass attains, which has a payload or associated data. That CCM and GCTR get the same plan for the verdict R186 does not list is
the model's choice (log 28). -/
def Obligations.PlanLengths : Prop :=
  ∀ (c : Ctx) (d : Dir) (sp : Bool) (cryptlen aadeff a0len : Nat),
    legalCombo c.cipherMode c.authMode c.family c.wrap = true →
      let n := (planGen c d sp cryptlen aadeff a0len).length
      let keyed := c.cipherMode = .cbc ∨ c.cipherMode = .ctr
      let hmac := c.authMode = .hmacSha1 ∨ c.authMode = .hmacSha256
      7 ≤ n ∧ n ≤ 13
        ∧ (keyed → hmac → sp = true → 10 ≤ n ∧ n ≤ 12) ∧ (keyed → c.authMode = .xcbc → sp = true → 7 ≤ n ∧ n ≤ 9)
        ∧ (keyed → hmac → sp = false → 10 ≤ n ∧ n ≤ 13 ∧ (0 < cryptlen ∨ 0 < aadeff → 11 ≤ n))
        ∧ (keyed → c.authMode = .xcbc → sp = false → 7 ≤ n ∧ n ≤ 10 ∧ (0 < cryptlen ∨ 0 < aadeff → 8 ≤ n))
        ∧ (c.cipherMode = .ccm → 8 ≤ n ∧ n ≤ 11) ∧ (c.cipherMode = .gctr → c.wrap ≠ .rfc4543 → 10 ≤ n ∧ n ≤ 12)
        ∧ (c.cipherMode = .gctr → c.wrap = .rfc4543 → 10 ≤ n ∧ n ≤ 12)

/-- The tag-producing steps (R204, R208(k)): one `HEXT TAGS`, one `TAGOUT`, the latter last and of the request's direction;
the HMAC plans also hold one `HEXT DIGS`, the others none. For tuples outside R186's rows this speaks of the plan the model chose
(log 28). -/
def Obligations.PlanTagSteps : Prop :=
  ∀ (c : Ctx) (d : Dir) (sp : Bool) (cryptlen aadeff a0len : Nat),
    let plan := planGen c d sp cryptlen aadeff a0len
    let keyed := c.cipherMode = .cbc ∨ c.cipherMode = .ctr
    let hmac := c.authMode = .hmacSha1 ∨ c.authMode = .hmacSha256
    plan.count (.hext .tags) = 1 ∧ (keyed ∧ hmac → plan.count (.hext .digs) = 1)
      ∧ (¬ (keyed ∧ hmac) → plan.count (.hext .digs) = 0)
      ∧ (∃ pre, plan = pre ++ [.tagout (match d with | .encrypt => .store | .decrypt => .cmp)]
          ∧ ∀ m, Instr.tagout m ∉ pre)

/-- Zero-length ranges (R205) and the side a `FUSE` absorbs (R192): no operation on an empty payload or on empty associated
data; CCM absorbs the plaintext side, every other mode the ciphertext side. Tuples outside R186's rows: log 28. -/
def Obligations.PlanOperations : Prop :=
  ∀ (c : Ctx) (d : Dir) (sp : Bool) (cryptlen aadeff a0len : Nat) (i : Instr),
    i ∈ planGen c d sp cryptlen aadeff a0len →
      (cryptlen = 0 → i ≠ .capp ∧ i ≠ .copy ∧ (∀ side pad, i ≠ .fuse side pad)
        ∧ (∀ pad, i ≠ .habs .pin pad) ∧ (∀ pad, i ≠ .habs .pout pad))
      ∧ (c.wrap ≠ .rfc4543 → aadeff = 0 → ∀ pad, i ≠ .habs .aad pad ∧ i ≠ .habs .a0 pad)
      ∧ (∀ side pad, i = .fuse side pad →
          (c.cipherMode = .ccm → (side = .input ↔ d = .encrypt)) ∧ (c.cipherMode ≠ .ccm → (side = .output ↔ d = .encrypt)))

/-- Every word of a stored plan decodes to the operation generated, the words after it are 0 (R185, R208(a)). Tuples outside
R186's rows: log 28. -/
def Obligations.PlanWordsDecode : Prop :=
  ∀ (c : Ctx) (d : Dir) (sp : Bool) (cryptlen aadeff a0len : Nat) (j : Nat) (hj : j < 16),
    let plan := planGen c d sp cryptlen aadeff a0len
    (∀ i, plan[j]? = some i → decode .opw (planWords plan)[j] = .ok i)
      ∧ (plan.length ≤ j → (planWords plan)[j] = 0)

/-! ### Plan operations. A result is stated as the state the operation step leaves: `State.advance` is the step's
`PP <- PP + 1` with completion after the last word (`Obligations.StepAdvances`). -/

/-- The end of an operation step (R108, R109): `PP` moves on; after the last word the request completes, the scratch is
scrubbed and the flags are written; no byte and no other register changes. -/
def Obligations.StepAdvances : Prop :=
  ∀ s : State,
    (s.pp + 1 ≠ s.plen → s.advance = { s with pp := s.pp + 1 })
      ∧ (s.pp + 1 = s.plen →
          let t := s.advance
          t.pp = s.plen ∧ t.status = { s.status with busy := false, done := true, err := false } ∧ t.errcode = none
            ∧ t.phase = .idle ∧ t.pend = .none ∧ Scrubbed t ∧ t.outlen = s.outlen ∧ t.ctx = s.ctx ∧ t.plan = s.plan
            ∧ t.plen = s.plen ∧ t.cfg = s.cfg ∧ t.keylen = s.keylen ∧ t.authkeylen = s.authkeylen
            ∧ t.aadlen = s.aadlen ∧ t.inlen = s.inlen ∧ ∀ sp off, t.readByte sp off = s.readByte sp off)

/-- `raise E` (R290): what it writes, and everything it does not. -/
def Obligations.RaiseEffects : Prop :=
  ∀ (s : State) (e : CmdError),
    let t := s.raise e
    t.outlen = 0 ∧ t.errcode = some e ∧ Scrubbed t
      ∧ t.status = { busy := false, done := true, err := true, ctxv := s.status.ctxv, sp := s.status.sp }
      ∧ t.phase = .idle ∧ t.pend = .none
      ∧ t.ctx = s.ctx ∧ t.pp = s.pp ∧ t.plen = s.plen ∧ t.plan = s.plan ∧ t.cfg = s.cfg ∧ t.keylen = s.keylen
      ∧ t.authkeylen = s.authkeylen ∧ t.aadlen = s.aadlen ∧ t.inlen = s.inlen
      ∧ ∀ sp off, t.readByte sp off
          = if s.phase = .exec ∧ s.outw = true ∧ sp = .outBuf ∧ off < s.cryptlen.toNat then 0 else s.readByte sp off

/-- The loads of the cipher engine (R211, R213), on every state. -/
def Obligations.LoadCipherEngine : Prop :=
  ∀ (s : State) (m : CeMode) (d : Dir),
    exec (.keyldCe m d) s
        = .next (State.advance { s with ce :=
            { fam := s.ctx.family, keyLen := s.ctx.encKeyLen, mode := m, dir := d, iv := s.ce.iv,
              key := toReg 32 (s.ctx.encKey.toList.take s.ctx.encKeyLen.toNat) } })
      ∧ exec .stldCeCiv s = .next (State.advance { s with ce := { s.ce with iv := s.frame.civ } })
      ∧ exec .stldCeCtr0p1 s
          = .next (State.advance { s with ce := { s.ce with iv := toBlock (s.frame.ctr0.toList.take 15 ++ [1]) } })
      ∧ exec .stldCeJ2 s = .next (State.advance { s with ce := { s.ce with iv := s.frame.j2 } })

/-- The loads of the MAC engine's algorithm and key (R212). That a preceding `HDRV` is read off the plan words already
executed is the model's reading (log 12). -/
def Obligations.LoadMacKey : Prop :=
  ∀ s : State,
    exec .keyldMeCbcmac s
        = .next (State.advance { s with me :=
            { s.me with alg := .cbcmac, key := s.ctx.encKey.toList.take s.ctx.encKeyLen.toNat } })
      ∧ (s.hasRun .hdrv = true →
          exec .keyldMeGhash s
            = .next (State.advance { s with me := { s.me with alg := .ghash, key := s.frame.h.toList } }))
      ∧ (∀ k1 k2 k3, s.ctx.authMode = .xcbc → s.ctx.authMat = .xcbc k1 k2 k3 →
          exec .keyldMeXcbc s
            = .next (State.advance { s with me :=
                { s.me with alg := .xcbc, key := k1.toList ++ k2.toList ++ k3.toList } }))

/-- The loads of the MAC engine's state (R214). -/
def Obligations.LoadMacState : Prop :=
  ∀ s : State,
    (∀ ipad opad alg, s.ctx.authMat = .hmac ipad opad →
        (s.ctx.authMode = .hmacSha1 ∧ alg = .sha1) ∨ (s.ctx.authMode = .hmacSha256 ∧ alg = .sha256) →
        exec .stldMeIpad s = .next (State.advance { s with me := { alg := alg, key := [], st := ipad } })
          ∧ exec .stldMeOpad s = .next (State.advance { s with me := { alg := alg, key := [], st := opad } }))
      ∧ (s.me.alg = .xcbc ∨ s.me.alg = .cbcmac ∨ s.me.alg = .ghash →
          exec .stldMeZero s
            = .next (State.advance { s with me := { s.me with st := { msg := [], fin := false } } }))

/-- `HABS` (R215, R216): the range and the padding are appended to the message. -/
def Obligations.HabsResult : Prop :=
  ∀ (s : State) (src : AbsSrc) (pad : Nat),
    let data : List Byte :=
      (match src with
        | .aad => s.readRange .aadBuf 0 s.aadeff.toNat
        | .pin => s.readRange .inBuf 0 s.cryptlen.toNat
        | .pout => s.readRange .outBuf 0 s.cryptlen.toNat
        | .b0 => s.frame.b0.toList
        | .a0 => s.frame.a0.toList.take s.a0len.toNat
        | .lenblk => s.frame.len.toList
        | .digs => s.digs.toList.take s.diglen.toNat
        | .iv8 => s.readRange .ivBuf 0 8) ++ List.replicate pad 0
    s.me.st.fin = false → data ≠ [] → s.draw = false →
      exec (.habs src pad) s
        = .next (State.advance { s with draws := s.draws.tail,
                                        me := { s.me with st := { msg := s.me.st.msg ++ data, fin := false } } })

/-- `CAPP` (R217): the payload is transformed into `OUTBUF[0..CRYPTLEN)`; every other byte of every space and every register
but `OUTW` is unchanged. -/
def Obligations.CappResult : Prop :=
  ∀ s : State,
    let out := blockCipherApply s.ce.fam (s.ce.key.toList.take s.ce.keyLen.toNat) s.ce.mode s.ce.dir s.ce.iv
      (s.readRange .inBuf 0 s.cryptlen.toNat)
    0 < s.cryptlen.toNat → s.cryptlen.toNat ≤ s.caps.bufCap → s.ce.mode = .cbc ∨ s.ce.mode = .ctr → s.draw = false →
      ∃ t, exec .capp s = .next t
        ∧ t = State.advance { s with draws := s.draws.tail, outw := true, mem := t.mem }
        ∧ t.readRange .outBuf 0 s.cryptlen.toNat = out
        ∧ ∀ sp off, ¬ (sp = .outBuf ∧ off < s.cryptlen.toNat) → t.readByte sp off = s.readByte sp off

/-- `FUSE` (R218): the payload is transformed into `OUTBUF[0..CRYPTLEN)` and one side of it, with padding, is absorbed. -/
def Obligations.FuseResult : Prop :=
  ∀ (s : State) (side : Side) (pad : Nat),
    let inp := s.readRange .inBuf 0 s.cryptlen.toNat
    let out := blockCipherApply s.ce.fam (s.ce.key.toList.take s.ce.keyLen.toNat) s.ce.mode s.ce.dir s.ce.iv inp
    let side' := match side with | .input => inp | .output => out
    0 < s.cryptlen.toNat → s.cryptlen.toNat ≤ s.caps.bufCap → s.ce.mode = .cbc ∨ s.ce.mode = .ctr ∨ s.ce.mode = .gctr →
      s.me.st.fin = false → s.draw = false →
        ∃ t, exec (.fuse side pad) s = .next t
          ∧ t = State.advance { s with
              draws := s.draws.tail, outw := true, mem := t.mem,
              me := { s.me with st := { msg := s.me.st.msg ++ (side' ++ List.replicate pad 0), fin := false } } }
          ∧ t.readRange .outBuf 0 s.cryptlen.toNat = out
          ∧ ∀ sp off, ¬ (sp = .outBuf ∧ off < s.cryptlen.toNat) → t.readByte sp off = s.readByte sp off

/-- `COPY` (R219): the payload is copied; every other byte and every register but `OUTW` is unchanged. -/
def Obligations.CopyResult : Prop :=
  ∀ s : State, 0 < s.cryptlen.toNat → s.cryptlen.toNat ≤ s.caps.bufCap →
    ∃ t, exec .copy s = .next t
      ∧ t = State.advance { s with outw := true, mem := t.mem }
      ∧ (∀ off, off < s.cryptlen.toNat → t.readByte .outBuf off = s.readByte .inBuf off)
      ∧ ∀ sp off, ¬ (sp = .outBuf ∧ off < s.cryptlen.toNat) → t.readByte sp off = s.readByte sp off

/-- `HDRV` and `HFIN` (R220, R221). -/
def Obligations.DeriveAndFinalize : Prop :=
  ∀ s : State, s.draw = false →
    (s.ce.mode = .ecb → s.ce.dir = .encrypt → s.ce.fam = .aes →
        exec .hdrv s
          = .next (State.advance { s with
              draws := s.draws.tail,
              frame := { s.frame with h := aesEnc (s.ce.key.toList.take s.ce.keyLen.toNat) (zeroBytes 16) } }))
      ∧ (s.me.alg = .sha1 ∨ s.me.alg = .sha256 ∨ s.me.alg = .xcbc → s.me.st.fin = false →
          exec .hfin s
            = .next (State.advance { s with
                draws := s.draws.tail, me := { s.me with st := { msg := s.me.st.msg, fin := true } } }))

/-- `HEXT` (R222, R261): the digest, zero-filled, in `TAGS` or in `DIGS` with its length; 20, 32 or 16 bytes by algorithm. -/
def Obligations.HextResult : Prop :=
  ∀ s : State,
    let d := macDigest s.me.alg s.me.key s.me.st
    let dlen := match s.me.alg with | .sha1 => 20 | .sha256 => 32 | .xcbc => 16 | .cbcmac => 16 | .ghash => 16
    let ready := match s.me.alg with
      | .sha1 | .sha256 | .xcbc => s.me.st.fin = true
      | .cbcmac | .ghash => s.me.st.fin = false ∧ 16 ∣ s.me.st.msg.length
    ready →
      (∃ tags, exec (.hext .tags) s = .next (State.advance { s with tags := tags }) ∧ tags.toList = d ++ zeros (32 - dlen))
        ∧ (s.me.alg = .sha1 ∨ s.me.alg = .sha256 →
            ∃ digs, exec (.hext .digs) s
                = .next (State.advance { s with digs := digs, diglen := BitVec.ofNat 6 dlen })
              ∧ digs.toList = d ++ zeros (32 - dlen))

/-- `CTAG` (R223): the first 16 bytes of `TAGS` are masked with an encrypted counter block, the others stay. A preceding
`HEXT TAGS` is read off the plan words already executed (the model's reading, log 12). -/
def Obligations.CtagResult : Prop :=
  ∀ (s : State) (blk : MaskBlk), s.hasRun (.hext .tags) = true → s.ctx.family = .aes → s.draw = false →
    let mask := aesEnc (s.ctx.encKey.toList.take s.ctx.encKeyLen.toNat)
      (match blk with | .ctr0 => s.frame.ctr0 | .j1 => s.frame.j1)
    ∃ tags, exec (.ctag blk) s = .next (State.advance { s with draws := s.draws.tail, tags := tags })
      ∧ (∀ (j : Nat) (h : j < 16), tags[j] = s.tags[j] ^^^ mask[j])
      ∧ ∀ (j : Nat) (h : j < 32), 16 ≤ j → tags[j] = s.tags[j]

/-- `TAGOUT STORE` (R240 to R242): the leading tag bytes stand right after the ciphertext, `OUTLEN` counts both, and every
other byte is unchanged. `hasRun` is the model's reading of "preceding" (log 12). -/
def Obligations.TagStored : Prop :=
  ∀ s : State,
    let n := s.cryptlen.toNat
    let t := s.ctx.tagLen.toNat
    s.dir = .encrypt → s.hasRun (.hext .tags) = true → t ≤ 32 → n + t ≤ s.caps.bufCap →
      ∃ u, exec (.tagout .store) s = .next u
        ∧ u = State.advance { s with mem := u.mem, outlen := s.cryptlen + s.ctx.tagLen.setWidth 32 }
        ∧ u.readRange .outBuf n t = s.tags.toList.take t
        ∧ ∀ sp off, ¬ (sp = .outBuf ∧ n ≤ off ∧ off < n + t) → u.readByte sp off = s.readByte sp off

/-- `TAGOUT CMP` (R240, R243 to R245): equality of all tag bytes decides; a match releases the plaintext's length, a mismatch
zeroes the plaintext and fails; the bytes of `TAGS` beyond the tag length play no part. `hasRun` is the model's reading of
"preceding" (log 12). -/
def Obligations.TagCompared : Prop :=
  ∀ s : State, s.dir = .decrypt → s.hasRun (.hext .tags) = true → s.ctx.tagLen.toNat ≤ 32 →
    let received := s.readRange .inBuf s.cryptlen.toNat s.ctx.tagLen.toNat
    let computed := s.tags.toList.take s.ctx.tagLen.toNat
    (computed = received → exec (.tagout .cmp) s = .next (State.advance { s with outlen := s.cryptlen }))
      ∧ (computed ≠ received →
          ∃ u, exec (.tagout .cmp) s = .next u ∧ u.errcode = some .authenticationFailed ∧ u.outlen = 0
            ∧ u.status = { s.status with busy := false, done := true, err := true } ∧ u.phase = .idle ∧ u.pend = .none
            ∧ Scrubbed u ∧ u.pp = s.pp ∧ u.plen = s.plen ∧ u.plan = s.plan ∧ u.ctx = s.ctx
            ∧ ∀ sp off, u.readByte sp off
                = if sp = .outBuf ∧ off < s.cryptlen.toNat then 0 else s.readByte sp off)

/-- A precondition that does not hold raises `IllegalCommand` (R210), from the state as it stands: no draw consumed and `OUTW`
as it was. That order of checks is the model's reading (log 13); what "preceding" means and what `HEXT` requires are those of
log 12 and log 14. -/
def Obligations.FailedPreconditions : Prop :=
  ∀ s : State,
    let illegal (i : Instr) : Prop := exec i s = .next (s.raise .illegalCommand)
    (s.ctx.authMode ≠ .xcbc → illegal .keyldMeXcbc)
      ∧ (s.hasRun .hdrv = false → illegal .keyldMeGhash)
      ∧ ((∀ ipad opad, s.ctx.authMat ≠ .hmac ipad opad) → illegal .stldMeIpad ∧ illegal .stldMeOpad)
      ∧ (s.me.alg = .sha1 ∨ s.me.alg = .sha256 → illegal .stldMeZero)
      ∧ (s.me.st.fin = true → ∀ src pad, illegal (.habs src pad))
      ∧ (s.me.st.fin = true → ∀ side pad, illegal (.fuse side pad))
      ∧ (∀ src, s.range src = [] → illegal (.habs src 0))
      ∧ (s.aadeff = 0 → illegal (.habs .aad 0)) ∧ (s.cryptlen = 0 → illegal (.habs .pin 0) ∧ illegal (.habs .pout 0))
      ∧ (s.a0len = 0 → illegal (.habs .a0 0)) ∧ (s.diglen = 0 → illegal (.habs .digs 0))
      ∧ (s.cryptlen = 0 → illegal .capp ∧ illegal .copy ∧ ∀ side pad, illegal (.fuse side pad))
      ∧ (s.ce.mode = .ecb → illegal .capp ∧ ∀ side pad, illegal (.fuse side pad))
      ∧ (s.ce.mode = .gctr → illegal .capp)
      ∧ (s.ce.mode ≠ .ecb ∨ s.ce.dir ≠ .encrypt ∨ s.ce.fam ≠ .aes → illegal .hdrv)
      ∧ (s.me.st.fin = true ∨ s.me.alg = .cbcmac ∨ s.me.alg = .ghash → illegal .hfin)
      ∧ (s.me.st.fin = false → s.me.alg = .sha1 ∨ s.me.alg = .sha256 ∨ s.me.alg = .xcbc → ∀ dst, illegal (.hext dst))
      ∧ (¬ 16 ∣ s.me.st.msg.length → s.me.alg = .cbcmac ∨ s.me.alg = .ghash → ∀ dst, illegal (.hext dst))
      ∧ (s.me.st.fin = true → s.me.alg = .cbcmac ∨ s.me.alg = .ghash → ∀ dst, illegal (.hext dst))
      ∧ (s.me.alg = .xcbc ∨ s.me.alg = .cbcmac ∨ s.me.alg = .ghash → illegal (.hext .digs))
      ∧ (s.hasRun (.hext .tags) = false → ∀ blk mode, illegal (.ctag blk) ∧ illegal (.tagout mode))
      ∧ (s.ctx.family = .tdes → ∀ blk, illegal (.ctag blk))
      ∧ (s.dir = .encrypt → illegal (.tagout .cmp)) ∧ (s.dir = .decrypt → illegal (.tagout .store))

/-- A failing primitive (R252, R288, R292): the operation raises `EngineError`, and `OUTBUF[0..CRYPTLEN)` is zeroed when a
payload-writing operation has started, `CAPP` and `FUSE` themselves included. Checking preconditions before the draw and
before `OUTW` is set is the model's reading (log 13). -/
def Obligations.EngineErrors : Prop :=
  ∀ (s : State) (i : Instr), s.phase = .exec → s.draw = true →
    ((∃ src pad, i = .habs src pad ∧ s.me.st.fin = false ∧ s.range src ++ zeros pad ≠ [])
      ∨ (i = .capp ∧ 0 < s.cryptlen.toNat ∧ (s.ce.mode = .cbc ∨ s.ce.mode = .ctr))
      ∨ (∃ side pad, i = .fuse side pad ∧ 0 < s.cryptlen.toNat ∧ s.ce.mode ≠ .ecb ∧ s.me.st.fin = false)
      ∨ (i = .hdrv ∧ s.ce.mode = .ecb ∧ s.ce.dir = .encrypt ∧ s.ce.fam = .aes)
      ∨ (i = .hfin ∧ (s.me.alg = .sha1 ∨ s.me.alg = .sha256 ∨ s.me.alg = .xcbc) ∧ s.me.st.fin = false)
      ∨ (∃ blk, i = .ctag blk ∧ s.hasRun (.hext .tags) = true ∧ s.ctx.family = .aes)) →
    ∃ t, exec i s = .next t ∧ t.errcode = some .engineError ∧ t.outlen = 0 ∧ Scrubbed t ∧ t.phase = .idle
      ∧ t.status = { s.status with busy := false, done := true, err := true }
      ∧ t.pp = s.pp ∧ t.plen = s.plen ∧ t.plan = s.plan ∧ t.ctx = s.ctx ∧ t.draws = s.draws.tail
      ∧ (∀ sp off, sp = .outBuf → off < s.cryptlen.toNat →
          s.outw = true ∨ i = .capp ∨ (∃ side pad, i = .fuse side pad) → t.readByte sp off = 0)
      ∧ (∀ sp off, ¬ (sp = .outBuf ∧ off < s.cryptlen.toNat
            ∧ (s.outw = true ∨ i = .capp ∨ ∃ side pad, i = .fuse side pad)) →
          t.readByte sp off = s.readByte sp off)

/-- What no plan operation writes (R224), whatever its outcome: the context, the plan, the host's registers, every byte outside
`OUTBUF`, every byte of `OUTBUF` beyond the payload and the stored tag; and an operation that writes no payload leaves all of
`OUTBUF` alone unless it fails after one that does. -/
def Obligations.PlanOperationFrame : Prop :=
  ∀ (s t : State) (i : Instr), i.format = .opw → exec i s = .next t →
    t.ctx = s.ctx ∧ t.plan = s.plan ∧ t.plen = s.plen ∧ t.cfg = s.cfg ∧ t.keylen = s.keylen
      ∧ t.authkeylen = s.authkeylen ∧ t.aadlen = s.aadlen ∧ t.inlen = s.inlen ∧ t.caps = s.caps
      ∧ (∀ sp off, sp ≠ .outBuf → t.readByte sp off = s.readByte sp off)
      ∧ (∀ off, s.cryptlen.toNat ≤ off → ¬ (i = .tagout .store ∧ off < s.cryptlen.toNat + s.ctx.tagLen.toNat) →
          t.readByte .outBuf off = s.readByte .outBuf off)
      ∧ (s.outw = false → i ≠ .capp → (∀ side pad, i ≠ .fuse side pad) → i ≠ .copy → (∀ m, i ≠ .tagout m) →
          ∀ off, t.readByte .outBuf off = s.readByte .outBuf off)

/-- `FUSE` equals its two halves (R225): with no failure draw, `FUSE OUT` leaves the `OUTBUF` and `ME.ST` of
`CAPP ; HABS POUT`, and `FUSE IN` those of `HABS PIN ; CAPP`. -/
def Obligations.FuseIsItsHalves : Prop :=
  ∀ (s : State) (pad : Nat), NoFailure s → 0 < s.cryptlen.toNat → s.cryptlen.toNat ≤ s.caps.bufCap →
    s.ce.mode = .cbc ∨ s.ce.mode = .ctr → s.me.st.fin = false → s.pp.toNat + 2 < s.plen.toNat →
      (∃ t u v, exec (.fuse .output pad) s = .next t ∧ exec .capp s = .next u ∧ exec (.habs .pout pad) u = .next v
        ∧ t.me.st = v.me.st ∧ ∀ sp off, t.readByte sp off = v.readByte sp off)
      ∧ (∃ t u v, exec (.fuse .input pad) s = .next t ∧ exec (.habs .pin pad) s = .next u ∧ exec .capp u = .next v
        ∧ t.me.st = v.me.st ∧ ∀ sp off, t.readByte sp off = v.readByte sp off)

/-- Deciphering undoes enciphering (R253's law carried through R263, R264, R266 and R267): every mode over whole blocks, the
counter modes over every length. -/
def Obligations.CipherInverts : Prop :=
  ∀ (fam : Family) (key : List Byte) (mode : CeMode) (iv : Block) (x : List Byte),
    (mode = .ecb ∨ mode = .cbc → (match fam with | .aes => 16 | .tdes => 8) ∣ x.length) →
      (mode = .ctr ∨ mode = .gctr → fam = .aes) →
        blockCipherApply fam key mode .decrypt iv (blockCipherApply fam key mode .encrypt iv x) = x

/-! ### The whole machine -/

/-- The machine right after reset (R42, R310): idle, no context, everything the rule names zero. The reset values are also
those of a `Reset` applied in any state. -/
def Obligations.ResetState : Prop :=
  (∀ s : State, s = State.reset ∨ (∃ u : State, s = u.platformReset) →
    s.status = { busy := false, done := false, err := false, ctxv := false, sp := false } ∧ s.errcode = none
      ∧ s.outlen = 0 ∧ s.pp = 0 ∧ s.plen = 0 ∧ s.cfg = 0 ∧ s.keylen = 0 ∧ s.authkeylen = 0 ∧ s.aadlen = 0 ∧ s.inlen = 0
      ∧ s.phase = .idle ∧ s.pend = .none ∧ s.ctx = zeroCtx ∧ Scrubbed s ∧ (∀ i, s.planWord i = 0)
      ∧ (∀ off, s.readByte .keyBuf off = 0))

/-- The invariants hold at reset. -/
def Obligations.InvariantsAtReset : Prop :=
  State.reset.memWf = true ∧ CtxOk State.reset ∧ SeqOk State.reset

/-- Every step keeps the buffer spaces in canonical form. -/
def Obligations.MemoryStaysCanonical : Prop :=
  ∀ s t : State, s.memWf = true → step s = .next t → t.memWf = true

/-- The context invariant (R135): every step keeps it. -/
def Obligations.ContextInvariant : Prop :=
  ∀ s t : State, CtxOk s → step s = .next t → CtxOk t

/-- The context is immutable (R114, R134): a step that changes it is a successful `SETKEY` without a context, a `CLRKEY`, or a
reset. -/
def Obligations.ContextImmutable : Prop :=
  ∀ s t : State, step s = .next t →
    (t.ctx = s.ctx ∧ t.status.ctxv = s.status.ctxv)
      ∨ (s.fetch = .run .setkey ∧ s.status.ctxv = false ∧ t.status.ctxv = true ∧ t.errcode = none)
      ∨ (s.fetch = .run .clrkey ∧ t.ctx = zeroCtx ∧ t.status.ctxv = false)
      ∨ (∃ rest, s.agenda = .reset :: rest ∧ t.ctx = zeroCtx ∧ t.status.ctxv = false)

/-- The sequencing invariant (R33, R34, R40): `BUSY`, `PHASE`, `PEND`, `PP` and `PLEN` agree and the scratch is clean between
requests; every step keeps it, and from a state that has it every step goes on. -/
def Obligations.SequencingInvariant : Prop :=
  ∀ s : State, SeqOk s → ∃ t, step s = .next t ∧ SeqOk t

/-- Termination (R113): an accepted command completes within one setup step and at most 13 operation steps. -/
def Obligations.CommandsTerminate : Prop :=
  ∀ (s : State) (p : Pend), Accepted s p → p ≠ .none →
    ∃ k t, k ≤ 14 ∧ turns k s = .next t ∧ t.status.busy = false ∧ t.status.done = true ∧ t.phase = .idle

/-- An encrypt request from its setup step to completion (R105, R226): with a legal context, accepted lengths and no primitive
failure, the output is the ciphertext followed by the truncated tag, and nothing outside `OUTBUF` changed. -/
def Obligations.EncryptEndToEnd : Prop :=
  ∀ (s : State) (v : Verdict) (f : Frame × BitVec 3),
    Accepted s .enc → s.status.ctxv = true → CtxLegal s.ctx → s.caps.Legal → NoFailure s →
      modeSelect s.caps s.ctx .encrypt s.inlen.toNat s.aadlen.toNat = .ok v →
        frameBuild s.ctx (s.readRange .ivBuf 0 16) v.cryptlen v.aadeff = .ok f →
          let iv := s.readRange .ivBuf 0 16
          let aad := s.readRange .aadBuf 0 v.aadeff
          let plain := s.readRange .inBuf 0 s.inlen.toNat
          let cipher := cipherRef s.ctx .encrypt iv plain
          let tag := (tagRef s.ctx iv aad plain cipher).take s.ctx.tagLen.toNat
          ∃ k t, k ≤ 14 ∧ turns k s = .next t
            ∧ t.status = { busy := false, done := true, err := false, ctxv := true, sp := v.sp } ∧ t.errcode = none
            ∧ t.outlen.toNat = s.inlen.toNat + s.ctx.tagLen.toNat
            ∧ t.readRange .outBuf 0 t.outlen.toNat = cipher ++ tag
            ∧ t.ctx = s.ctx ∧ Scrubbed t ∧ ∀ sp off, sp ≠ .outBuf → t.readByte sp off = s.readByte sp off

/-- A decrypt request from its setup step to completion (R106, R226, R244, R245): the received tag is compared with the tag
recomputed; a match releases the plaintext, a mismatch leaves zeros and `AuthenticationFailed`. -/
def Obligations.DecryptEndToEnd : Prop :=
  ∀ (s : State) (v : Verdict) (f : Frame × BitVec 3),
    Accepted s .dec → s.status.ctxv = true → CtxLegal s.ctx → s.caps.Legal → NoFailure s →
      modeSelect s.caps s.ctx .decrypt s.inlen.toNat s.aadlen.toNat = .ok v →
        frameBuild s.ctx (s.readRange .ivBuf 0 16) v.cryptlen v.aadeff = .ok f →
          let n := s.inlen.toNat - s.ctx.tagLen.toNat
          let iv := s.readRange .ivBuf 0 16
          let aad := s.readRange .aadBuf 0 v.aadeff
          let cipher := s.readRange .inBuf 0 n
          let plain := cipherRef s.ctx .decrypt iv cipher
          let tag := (tagRef s.ctx iv aad plain cipher).take s.ctx.tagLen.toNat
          let received := s.readRange .inBuf n s.ctx.tagLen.toNat
          ∃ k t, k ≤ 14 ∧ turns k s = .next t ∧ t.ctx = s.ctx ∧ Scrubbed t
            ∧ (∀ sp off, sp ≠ .outBuf → t.readByte sp off = s.readByte sp off)
            ∧ (tag = received →
                t.status = { busy := false, done := true, err := false, ctxv := true, sp := v.sp } ∧ t.errcode = none
                  ∧ t.outlen.toNat = n ∧ t.readRange .outBuf 0 n = plain)
            ∧ (tag ≠ received →
                t.status = { busy := false, done := true, err := true, ctxv := true, sp := v.sp }
                  ∧ t.errcode = some .authenticationFailed ∧ t.outlen = 0 ∧ t.readRange .outBuf 0 n = zeros n)
end

