-- ==== Sys2Proof/Laws/Bytes.lean ====
section
/-! SUPPORT. Laws of byte strings: lengths, registers, big-endian numbers, padding, blocks (`spec/00_scope.md` R9). -/

namespace Sys2Proof.Machine

open Sys2Proof

@[simp] theorem zeros_length (n : Nat) : (zeros n).length = n := by simp [zeros]

@[simp] theorem be_length (n v : Nat) : (be n v).length = n := by
  induction n with
  | zero => rfl
  | succ n ih => simp [be, ih]

@[simp] theorem xorBytes_length (x y : List Byte) : (xorBytes x y).length = min x.length y.length := by
  simp [xorBytes]

@[simp] theorem xorRepeat_length (c : Byte) (l : List Byte) : (xorRepeat c l).length = l.length := by
  simp [xorRepeat]

theorem slice_length (l : List Byte) (a b : Nat) : (slice l a b).length = min (b - a) (l.length - a) := by
  simp [slice]

@[simp] theorem fitTo_toList {α : Type} (n : Nat) (d : α) (l : List α) :
    (fitTo n d l).toList = (l ++ List.replicate n d).take n := rfl

/-- A string that fits its register exactly is what the register holds. -/
theorem toReg_toList_eq {n : Nat} {l : List Byte} (h : l.length = n) : (toReg n l).toList = l := by
  subst h; simp [toReg]

/-- A string no longer than the register is its prefix there, zeros follow. -/
theorem toReg_toList_of_le {n : Nat} {l : List Byte} (h : l.length ≤ n) :
    (toReg n l).toList = l ++ zeros (n - l.length) := by
  simp [toReg, zeros, List.take_append, List.take_of_length_le h]

theorem toBlock_toList_eq {l : List Byte} (h : l.length = 16) : (toBlock l).toList = l := toReg_toList_eq h

/-- A register read back as bytes and stored again is unchanged. -/
@[simp] theorem toReg_toList_self {n : Nat} (v : Vector Byte n) : toReg n v.toList = v := by
  apply Vector.toList_inj.mp
  exact toReg_toList_eq (by simp)

theorem beVal_append_single (l : List Byte) (b : Byte) : beVal (l ++ [b]) = beVal l * 256 + b.toNat := by
  simp [beVal]

theorem beVal_foldl (l : List Byte) (a : Nat) :
    l.foldl (fun a (b : Byte) => a * 256 + b.toNat) a = a * 256 ^ l.length + beVal l := by
  induction l generalizing a with
  | nil => simp [beVal]
  | cons b bs ih =>
    have h0 := ih b.toNat
    simp only [List.foldl_cons, List.length_cons, beVal, Nat.zero_mul, Nat.zero_add]
    rw [ih, h0]; ring

theorem beVal_cons (b : Byte) (l : List Byte) : beVal (b :: l) = b.toNat * 256 ^ l.length + beVal l := by
  have h := beVal_foldl l b.toNat
  simpa [beVal] using h

theorem beVal_append (x y : List Byte) : beVal (x ++ y) = beVal x * 256 ^ y.length + beVal y := by
  simp only [beVal, List.foldl_append]
  exact beVal_foldl y _

/-- The big-endian encoding read back (R9). -/
theorem beVal_be (n v : Nat) : beVal (be n v) = v % 256 ^ n := by
  induction n with
  | zero => simp [be, beVal, Nat.mod_one]
  | succ n ih =>
    have h : v % (256 ^ n * 256) = v % 256 ^ n + 256 ^ n * (v / 256 ^ n % 256) := Nat.mod_mul
    rw [be, beVal_cons, ih, be_length, BitVec.toNat_ofNat, pow_succ 256 n, h]
    ring

theorem beVal_lt (l : List Byte) : beVal l < 256 ^ l.length := by
  induction l with
  | nil => simp [beVal]
  | cons b bs ih =>
    rw [beVal_cons, List.length_cons, pow_succ]
    have hb := b.isLt
    have h1 : (b.toNat + 1) * 256 ^ bs.length ≤ 256 * 256 ^ bs.length := Nat.mul_le_mul_right _ (by omega)
    rw [Nat.add_mul] at h1
    omega

/-- The encoding depends on the number modulo `256^n` only. -/
theorem be_congr (n v w : Nat) (h : v % 256 ^ n = w % 256 ^ n) : be n v = be n w := by
  induction n generalizing v w with
  | zero => rfl
  | succ n ih =>
    rw [be, be]
    congr 1
    · apply BitVec.eq_of_toNat_eq
      rw [BitVec.toNat_ofNat, BitVec.toNat_ofNat]
      have h2 := congrArg (· / 256 ^ n) h
      simp only [pow_succ] at h2
      rw [Nat.mod_mul_right_div_self, Nat.mod_mul_right_div_self] at h2
      exact h2
    · apply ih
      have h2 := congrArg (· % 256 ^ n) h
      simp only [pow_succ] at h2
      rw [Nat.mod_mul_right_mod, Nat.mod_mul_right_mod] at h2
      exact h2

/-- A string is the encoding of the number it encodes. -/
theorem be_beVal (l : List Byte) : be l.length (beVal l) = l := by
  induction l with
  | nil => rfl
  | cons b l ih =>
    rw [List.length_cons, be, beVal_cons]
    have hz := beVal_lt l
    congr 1
    · rw [Nat.mul_comm, Nat.mul_add_div (by positivity), Nat.div_eq_of_lt hz]; simp
    · rw [be_congr _ _ (beVal l) (by rw [Nat.mul_comm, Nat.mul_add_mod]), ih]

theorem beVal_zeros (n : Nat) : beVal (zeros n) = 0 := by
  induction n with
  | zero => rfl
  | succ n ih => rw [zeros, List.replicate_succ, beVal_cons]; simpa [zeros] using ih

theorem pad16_lt (n : Nat) : pad16 n < 16 := Nat.mod_lt _ (by norm_num)

/-- The padding completes a 16-byte block (R9). -/
theorem pad16_completes (n : Nat) : (n + pad16 n) % 16 = 0 := by
  unfold pad16; omega

@[simp] theorem pad16_zero : pad16 0 = 0 := rfl

theorem blocksOf_nil (bs : Nat) : blocksOf bs [] = [] := by
  rcases bs with _ | bs <;> simp [blocksOf, Nat.div_eq_of_lt]

/-- A string longer than nothing is its first block and the blocks of the rest. -/
theorem blocksOf_cons {bs : Nat} (hbs : 0 < bs) {l : List Byte} (hl : l ≠ []) :
    blocksOf bs l = l.take bs :: blocksOf bs (l.drop bs) := by
  have hpos : 0 < l.length := List.length_pos_of_ne_nil hl
  have hn : (l.length + bs - 1) / bs = (l.drop bs).length.add (bs - 1) / bs + 1 := by
    have : (l.drop bs).length = l.length - bs := by simp
    rw [this]
    rcases Nat.lt_or_ge l.length bs with h | h
    · rw [Nat.sub_eq_zero_of_le h.le]
      have h1 : (Nat.add 0 (bs - 1)) / bs = 0 := Nat.div_eq_of_lt (by simp; omega)
      rw [h1]
      exact Nat.div_eq_of_lt_le (by omega) (by omega)
    · have : l.length + bs - 1 = (l.length - bs).add (bs - 1) + bs := by
        show _ = (l.length - bs) + (bs - 1) + bs; omega
      rw [this, Nat.add_div_right _ hbs]
  unfold blocksOf
  rw [hn, List.range_succ_eq_map, List.map_cons, List.map_map]
  congr 1
  · simp
  · have h2 : (l.drop bs).length + bs - 1 = (l.drop bs).length.add (bs - 1) := by
      show _ = (l.drop bs).length + (bs - 1); omega
    rw [h2]
    apply List.map_congr_left
    intro i _
    simp [List.drop_drop, Nat.succ_mul, Nat.add_comm]

/-- Induction over a string by its leading blocks. -/
theorem blocks_induction {bs : Nat} (hbs : 0 < bs) {P : List Byte → Prop} (h0 : P [])
    (h1 : ∀ l, l ≠ [] → P (l.drop bs) → P l) (l : List Byte) : P l := by
  induction hn : l.length using Nat.strong_induction_on generalizing l with
  | _ n ih =>
    rcases eq_or_ne l [] with rfl | hl
    · exact h0
    · have hpos := List.length_pos_of_ne_nil hl
      exact h1 l hl (ih _ (by rw [List.length_drop]; omega) _ rfl)

/-- The blocks joined again. -/
theorem blocksOf_flatten {bs : Nat} (hbs : 0 < bs) (l : List Byte) : (blocksOf bs l).flatten = l := by
  induction l using blocks_induction hbs with
  | h0 => simp [blocksOf_nil]
  | h1 l hl ih => rw [blocksOf_cons hbs hl, List.flatten_cons, ih, List.take_append_drop]

end Sys2Proof.Machine
end

