-- ==== Sys2Proof/Laws/Primitives.lean ====
section
/-! SUPPORT. Laws of the primitives (`spec/47_primitives.md`): every output has the length R250 gives it. -/

namespace Sys2Proof.Machine

open Sys2Proof

theorem cblock_pos (fam : Family) : 0 < cblock fam := by cases fam <;> decide

@[simp] theorem blockEnc_length (fam : Family) (key b : List Byte) : (blockEnc fam key b).length = cblock fam := by
  cases fam <;> simp [blockEnc, cblock]

@[simp] theorem blockDec_length (fam : Family) (key b : List Byte) : (blockDec fam key b).length = cblock fam := by
  cases fam <;> simp [blockDec, cblock]

@[simp] theorem ofLength_length (n : Nat) (l : List Byte) : (ofLength n l).length = n := by simp [ofLength]

/-- The length of a concatenation of blocks of one length. -/
theorem flatten_length {bs : Nat} {l : List (List Byte)} (h : ∀ b ∈ l, b.length = bs) :
    l.flatten.length = l.length * bs := by
  induction l with
  | nil => simp
  | cons b l ih => simp [h b (by simp), ih (fun b hb => h b (by simp [hb]))]; ring

/-- A string of whole blocks has no short one. -/
theorem blocksOf_full {bs : Nat} (hbs : 0 < bs) (l : List Byte) (h : l.length % bs = 0) :
    ∀ b ∈ blocksOf bs l, b.length = bs := by
  induction l using blocks_induction hbs with
  | h0 => simp [blocksOf_nil]
  | h1 l hl ih =>
    rw [blocksOf_cons hbs hl]
    have hp := List.length_pos_of_ne_nil hl
    have hge : bs ≤ l.length := by
      by_contra hc
      rw [Nat.mod_eq_of_lt (by omega)] at h; omega
    intro b hb
    rcases List.mem_cons.mp hb with rfl | hb
    · simp; omega
    · refine ih ?_ b hb
      rw [List.length_drop, ← Nat.mod_eq_sub_mod hge]; exact h

theorem blocksOf_length {bs : Nat} (hbs : 0 < bs) (l : List Byte) (h : l.length % bs = 0) :
    (blocksOf bs l).length * bs = l.length := by
  rw [← flatten_length (blocksOf_full hbs l h), blocksOf_flatten hbs]

/-- CBC encryption makes one whole block per block. -/
theorem cbcEnc_blocks (fam : Family) (key prev : List Byte) (bl : List (List Byte)) :
    (cbcEnc fam key prev bl).length = bl.length ∧ ∀ b ∈ cbcEnc fam key prev bl, b.length = cblock fam := by
  induction bl generalizing prev with
  | nil => simp [cbcEnc]
  | cons p ps ih =>
    refine ⟨by simp [cbcEnc, (ih _).1], fun b hb => ?_⟩
    rcases List.mem_cons.mp hb with rfl | hb
    · exact blockEnc_length _ _ _
    · exact (ih _).2 b hb

/-- CBC decryption makes one whole block per whole block. -/
theorem cbcDec_blocks (fam : Family) (key prev : List Byte) (bl : List (List Byte)) (hp : prev.length = cblock fam)
    (hb : ∀ b ∈ bl, b.length = cblock fam) :
    (cbcDec fam key prev bl).length = bl.length ∧ ∀ b ∈ cbcDec fam key prev bl, b.length = cblock fam := by
  induction bl generalizing prev with
  | nil => simp [cbcDec]
  | cons p ps ih =>
    have hps := ih p (hb p (by simp)) (fun b h => hb b (by simp [h]))
    refine ⟨by simp [cbcDec, hps.1], fun b hb => ?_⟩
    rcases List.mem_cons.mp hb with rfl | hb
    · simp [hp]
    · exact hps.2 b hb

/-- Counter mode keeps the length, whatever the increment. -/
theorem ctrApply_length (inc : Block → Block) (key : List Byte) (t : Block) (l : List Byte) :
    (ctrApply inc key t (blocksOf 16 l)).flatten.length = l.length := by
  induction l using blocks_induction (bs := 16) (by norm_num) generalizing t with
  | h0 => simp [blocksOf_nil, ctrApply]
  | h1 l hl ih =>
    rw [blocksOf_cons (by norm_num) hl, ctrApply, List.flatten_cons, List.length_append, ih]
    simp; omega

/-- The cipher primitive's output is as long as its input (R250, R255). -/
@[simp] theorem blockCipherApply_length (fam : Family) (key : List Byte) (m : CeMode) (d : Dir) (iv : Block)
    (x : List Byte) : (blockCipherApply fam key m d iv x).length = x.length := by
  have ho : (outsideContract fam key m d iv x).length = x.length := by simp [outsideContract]
  have hb := cblock_pos fam
  unfold blockCipherApply
  cases m with
  | ecb =>
    simp only []
    split
    · rename_i h
      cases d <;> simp only [ecbApply]
      all_goals
        rw [flatten_length (bs := cblock fam), List.length_map, blocksOf_length hb x h]
        intro b hb; obtain ⟨c, _, rfl⟩ := List.mem_map.mp hb; simp
    · exact ho
  | cbc =>
    simp only []
    split
    · rename_i h
      have hiv : (iv.toList.take (cblock fam)).length = cblock fam := by cases fam <;> simp [cblock]
      cases d <;> simp only []
      · rw [flatten_length (cbcEnc_blocks _ _ _ _).2, (cbcEnc_blocks _ _ _ _).1, blocksOf_length hb x h]
      · have hd := cbcDec_blocks fam key _ _ hiv (blocksOf_full hb x h)
        rw [flatten_length hd.2, hd.1, blocksOf_length hb x h]
    · exact ho
  | ctr => cases fam <;> simp only []; exact ctrApply_length _ _ _ _; exact ho
  | gctr => cases fam <;> simp only []; exact ctrApply_length _ _ _ _; exact ho

/-- `DLEN(alg)` (R256, R261). -/
theorem macDigest_length (alg : MacAlg) (key : List Byte) (st : MacState) :
    (macDigest alg key st).length
      = match alg with | .sha1 => 20 | .sha256 => 32 | .xcbc => 16 | .cbcmac => 16 | .ghash => 16 := by
  cases alg <;> simp [macDigest, sha1, sha256]

theorem macDigest_length_le (alg : MacAlg) (key : List Byte) (st : MacState) : (macDigest alg key st).length ≤ 32 := by
  rw [macDigest_length]; cases alg <;> decide

end Sys2Proof.Machine
end

