-- ==== Sys2Proof/Laws/KeySchedule.lean ====
section
/-! SUPPORT. The checks of `SETKEY` and the printed tables agree: which configuration words are legal and what they give
(`spec/30_encoding.md` R72 to R77, R84 to R86), which key lengths are (`spec/41_key_schedule.md` R121 to R126), and the HMAC key
block (R127). -/

namespace Sys2Proof.Machine

open Sys2Proof Sys2Proof.Safety

theorem cipherModeOf_iff (b : BitVec 2) (c : CipherMode) :
    cipherModeOf b = c ↔ b.toNat = (match c with | .cbc => 0 | .ctr => 1 | .ccm => 2 | .gctr => 3) := by
  revert b; cases c <;> decide

theorem authModeOf_iff (b : BitVec 2) (a : AuthMode) :
    authModeOf b = a ↔ b.toNat = (match a with | .hmacSha1 => 0 | .hmacSha256 => 1 | .xcbc => 2 | .none => 3) := by
  revert b; cases a <;> decide

theorem familyOf_iff (b : BitVec 1) (f : Family) :
    familyOf b = f ↔ b.toNat = (match f with | .aes => 0 | .tdes => 1) := by
  revert b; cases f <;> decide

theorem wrapOf_iff (b : BitVec 3) (w : Wrap) :
    wrapOf b = some w
      ↔ b.toNat = (match w with | .none => 0 | .rfc3686 => 1 | .rfc4309 => 2 | .rfc4106 => 3 | .rfc4543 => 4) := by
  revert b; cases w <;> decide

theorem legalCombo_iff (c : CipherMode) (a : AuthMode) (f : Family) (w : Wrap) :
    legalCombo c a f w = true ↔
      (match c with
        | .cbc => a ≠ .none ∧ w = .none
        | .ctr => a ≠ .none ∧ f = .aes ∧ (w = .none ∨ w = .rfc3686)
        | .ccm => a = .none ∧ f = .aes ∧ (w = .none ∨ w = .rfc4309)
        | .gctr => a = .none ∧ f = .aes ∧ (w = .none ∨ w = .rfc4106 ∨ w = .rfc4543)) := by
  cases c <;> simp [legalCombo, and_assoc, or_assoc]

/-- The tag lengths of R85, under a combination of R84. -/
theorem legalTagLen_iff {c : CipherMode} {a : AuthMode} {f : Family} {w : Wrap} (h : legalCombo c a f w = true)
    (t : BitVec 6) :
    legalTagLen c a t.toNat = true ↔
      (a = .hmacSha1 → 1 ≤ t.toNat ∧ t.toNat ≤ 20) ∧ (a = .hmacSha256 → 1 ≤ t.toNat ∧ t.toNat ≤ 32)
        ∧ (a = .xcbc → 1 ≤ t.toNat ∧ t.toNat ≤ 16) ∧ (c = .ccm → t.toNat ∈ [4, 6, 8, 10, 12, 14, 16])
        ∧ (c = .gctr → 1 ≤ t.toNat ∧ t.toNat ≤ 16) := by
  revert t; cases c <;> cases a <;> first | (simp [legalCombo] at h; done) | decide

/-- What a configuration word that parses gives (R72 to R77). -/
theorem parseCfg_iff (w : Word) (c : CfgFields) :
    parseCfg w = some c ↔
      w.extractLsb' 14 18 = 0 ∧ cipherModeOf (w.extractLsb' 0 2) = c.cipherMode
        ∧ authModeOf (w.extractLsb' 2 2) = c.authMode ∧ familyOf (w.extractLsb' 4 1) = c.family
        ∧ wrapOf (w.extractLsb' 5 3) = some c.wrap ∧ w.extractLsb' 8 6 = c.tagLen := by
  obtain ⟨cm, am, f, wr, t⟩ := c
  unfold parseCfg
  split
  · rename_i h
    cases hw : wrapOf (w.extractLsb' 5 3) <;> simp [h]
  · rename_i h; exact iff_of_false (fun e => nomatch e) fun e => h e.1

/-- `legalCfg` accepts exactly the words of R84 and R85 and gives the fields of R72 (R86). -/
theorem legalCfg_eq_some_iff (w : Word) (c : CfgFields) : legalCfg w = some c ↔ CfgGives w c := by
  have field : ∀ (a n : Nat), (w.extractLsb' a n).toNat = w.toNat / 2 ^ a % 2 ^ n := by
    intro a n; simp [Nat.shiftRight_eq_div_pow]
  have top : w.extractLsb' 14 18 = 0 ↔ w.toNat < 2 ^ 14 := by
    rw [← BitVec.toNat_inj, field]
    have := w.isLt
    simp only [BitVec.ofNat_eq_ofNat, BitVec.toNat_ofNat, Nat.zero_mod]
    omega
  have tag : w.extractLsb' 8 6 = c.tagLen ↔ w.toNat / 256 % 64 = c.tagLen.toNat := by
    rw [← BitVec.toNat_inj, field]; rfl
  simp only [legalCfg, Option.filter_eq_some_iff, Bool.and_eq_true, parseCfg_iff, top, tag, cipherModeOf_iff, authModeOf_iff,
    familyOf_iff, wrapOf_iff, field]
  rw [and_congr_right_iff.mpr fun _ => and_congr_right_iff.mpr fun h => legalTagLen_iff h c.tagLen, legalCombo_iff]
  simp only [CfgGives, and_assoc, Nat.pow_zero, Nat.div_one]
  rfl

theorem legalCfg_eq_none_iff (w : Word) : legalCfg w = none ↔ ∀ c, ¬ CfgGives w c := by
  simp only [← legalCfg_eq_some_iff, Option.eq_none_iff_forall_ne_some, ne_eq]

@[simp] theorem nonceBytes_eq (w : Wrap) : nonceBytes w = nonceLen w := by cases w <;> rfl

/-- The key-length checks of `SETKEY` are the printed ones (R121, R122, R124 to R126). -/
theorem keyLensOk_iff (keyCap : Nat) (c : CfgFields) (k a : Nat) :
    KeyLensOk keyCap c k a ↔
      k ≤ keyCap ∧ a + nonceLen c.wrap ≤ k ∧ encKeyLenOk c.family (k - a - nonceLen c.wrap) = true
        ∧ authKeyLenOk c.authMode a = true := by
  simp only [KeyLensOk, nonceBytes_eq]
  cases c.family <;> cases c.authMode <;> simp [encKeyLenOk, authKeyLenOk, or_assoc]

/-- R127's key block, for a hash of `dlen` bytes. -/
theorem hmacKeyBlock_eq {alg : MacAlg} {ak : List Byte} {dlen : Nat} (hd : (hashDigest alg ak).length = dlen)
    (h64 : dlen ≤ 64) :
    hmacKeyBlock alg ak
      = if 64 < ak.length then hashDigest alg ak ++ zeros (64 - dlen) else ak ++ zeros (64 - ak.length) := by
  unfold hmacKeyBlock ofLength zeros
  split
  · rw [List.take_append, hd, List.take_of_length_le (by omega), List.take_replicate, Nat.min_eq_left (by omega)]
  · rw [List.take_append, List.take_of_length_le (by omega), List.take_replicate, Nat.min_eq_left (by omega)]

end Sys2Proof.Machine
end

