-- ==== Sys2Proof/Laws/Memory.lean ====
section
/-! SUPPORT. Laws of the buffer spaces: what a read after a write gives, what a write leaves alone, and that every operation
keeps the canonical form (`spec/20_memory.md` R50 to R52). -/

namespace Sys2Proof.Machine

open Sys2Proof

/-! One space, as cells. -/

theorem get?_append (m n : List Host.Cell) (x : Nat) :
    Memory.get? (m ++ n) x = (Memory.get? m x).or (Memory.get? n x) := by
  simp only [Memory.get?, List.find?_append]
  cases List.find? (fun c : Host.Cell => c.1 == x) m <;> simp

/-- Cells dropped by a test on their offset are not found; the others are found as before. -/
theorem get?_filter_offset (p : Nat → Bool) (m : List Host.Cell) (x : Nat) :
    Memory.get? (m.filter fun c => p c.1) x = if p x then Memory.get? m x else none := by
  induction m with
  | nil => simp [Memory.get?]
  | cons c m ih =>
    simp only [Memory.get?] at ih ⊢
    by_cases hx : c.1 = x
    · subst hx
      by_cases hp : p c.1
      · simp [hp]
      · rw [List.filter_cons_of_neg (by simpa using hp), ih]; simp [hp]
    · by_cases hp : p c.1 <;> simp_all

/-- What the cells of a written string list at an offset. -/
theorem get?_cellsAt (dflt : Option Byte) (a : Nat) (bs : List Byte) (x : Nat) :
    Memory.get? ((cellsAt a bs).filter fun c => some c.2 ≠ dflt) x =
      if a ≤ x then (bs[x - a]?).filter fun b => some b ≠ dflt else none := by
  induction bs generalizing a with
  | nil => simp [cellsAt, Memory.get?]
  | cons b bs ih =>
    rw [cellsAt, List.filter_cons]
    by_cases hx : a = x
    · subst hx
      have hn := ih (a + 1)
      rw [if_neg (by omega)] at hn
      by_cases hb : some b = dflt
      · subst hb; simpa [Option.filter] using hn
      · simp [hb, Memory.get?, Option.filter]
    · have hn := ih (a + 1)
      have hstep : ∀ m : List Host.Cell, Memory.get? ((a, b) :: m) x = Memory.get? m x := by
        intro m; simp [Memory.get?, hx]
      have hl : (if a + 1 ≤ x then (bs[x - (a + 1)]?).filter fun b => some b ≠ dflt else none) =
          if a ≤ x then ((b :: bs)[x - a]?).filter fun b => some b ≠ dflt else none := by
        by_cases h : a ≤ x
        · rw [if_pos (by omega), if_pos h, show x - a = x - (a + 1) + 1 by omega, List.getElem?_cons_succ]
        · rw [if_neg (by omega), if_neg h]
      split
      · rw [hstep, hn, hl]
      · rw [hn, hl]

/-- The cells after a write: the string's bytes inside its range, the old cells outside. -/
theorem get?_store (dflt : Option Byte) (m : List Host.Cell) (a : Nat) (bs : List Byte) (x : Nat) :
    Memory.get? (Memory.store dflt m a bs) x =
      if a ≤ x ∧ x < a + bs.length then (bs[x - a]?).filter fun b => some b ≠ dflt else Memory.get? m x := by
  rw [Memory.store, get?_append, get?_append, get?_cellsAt,
    get?_filter_offset (fun i => decide (i < a)), get?_filter_offset (fun i => decide (a + bs.length ≤ i))]
  by_cases h1 : x < a
  · have h2 : ¬ a + bs.length ≤ x := by omega
    have h3 : ¬ a ≤ x := by omega
    simp [h1, h2, h3]
  · have h3 : a ≤ x := by omega
    by_cases h2 : a + bs.length ≤ x
    · have h4 : bs[x - a]? = none := List.getElem?_eq_none (by omega)
      simp [h1, h2, h3, h4, show ¬ x < a + bs.length by omega]
    · simp [h1, h2, h3, show x < a + bs.length by omega]

theorem rising_iff (m : List Host.Cell) : rising m = true ↔ m.Pairwise fun c d => c.1 < d.1 := by
  induction m with
  | nil => simp [rising]
  | cons c m ih =>
    cases m with
    | nil => simp [rising]
    | cons d m =>
      rw [rising, Bool.and_eq_true, ih, List.pairwise_cons (l := d :: m), decide_eq_true_eq]
      constructor
      · rintro ⟨h1, h2⟩
        refine ⟨?_, h2⟩
        intro e he
        rcases List.mem_cons.mp he with rfl | he
        · exact h1
        · exact lt_trans h1 ((List.pairwise_cons.mp h2).1 e he)
      · rintro ⟨h1, h2⟩
        exact ⟨h1 d (by simp), h2⟩

theorem cellsAt_mem {a : Nat} {bs : List Byte} {c : Host.Cell} (h : c ∈ cellsAt a bs) :
    a ≤ c.1 ∧ c.1 < a + bs.length := by
  induction bs generalizing a with
  | nil => simp [cellsAt] at h
  | cons b bs ih =>
    rcases List.mem_cons.mp h with rfl | h
    · simp
    · have := ih h; simp only [List.length_cons]; omega

theorem cellsAt_rising (a : Nat) (bs : List Byte) : (cellsAt a bs).Pairwise fun c d => c.1 < d.1 := by
  induction bs generalizing a with
  | nil => simp [cellsAt]
  | cons b bs ih =>
    rw [cellsAt, List.pairwise_cons]
    refine ⟨fun c hc => ?_, ih _⟩
    have := cellsAt_mem hc
    show a < c.1
    omega

/-- A write that stays inside the space keeps the canonical form. -/
theorem wf_store {dflt : Option Byte} {size : Nat} {m : List Host.Cell} (a : Nat) (bs : List Byte)
    (hm : Memory.wf dflt size m = true) (hb : bs = [] ∨ a + bs.length ≤ size) :
    Memory.wf dflt size (Memory.store dflt m a bs) = true := by
  simp only [Memory.wf, Bool.and_eq_true, rising_iff, List.all_eq_true, decide_eq_true_eq] at hm ⊢
  obtain ⟨hr, ha⟩ := hm
  refine ⟨?_, ?_⟩
  · rw [Memory.store, List.pairwise_append, List.pairwise_append]
    refine ⟨⟨hr.filter _, (cellsAt_rising a bs).filter _, ?_⟩, hr.filter _, ?_⟩
    · intro c hc d hd
      have h1 : c.1 < a := by simpa using (List.mem_filter.mp hc).2
      have h2 := (cellsAt_mem (List.mem_filter.mp hd).1).1
      omega
    · intro c hc d hd
      have h2 : a + bs.length ≤ d.1 := by simpa using (List.mem_filter.mp hd).2
      rcases List.mem_append.mp hc with hc | hc
      · have h1 : c.1 < a := by simpa using (List.mem_filter.mp hc).2
        omega
      · have h1 := (cellsAt_mem (List.mem_filter.mp hc).1).2
        omega
  · intro c hc
    rw [Memory.store, List.mem_append, List.mem_append] at hc
    rcases hc with (hc | hc) | hc
    · exact ha c (List.mem_filter.mp hc).1
    · obtain ⟨h1, h2⟩ := List.mem_filter.mp hc
      have h3 := cellsAt_mem h1
      have h4 : some c.2 ≠ dflt := by simpa using h2
      refine ⟨?_, h4⟩
      rcases hb with rfl | hb
      · simp at h3; omega
      · omega
    · exact ha c (List.mem_filter.mp hc).1

/-! The spaces of the machine. -/

@[simp] theorem cells_set_self (m : Buffers) (sp : Space) (c : List Host.Cell) : (m.set sp c).cells sp = c := by
  cases sp <;> rfl

theorem cells_set_of_ne {sp sp' : Space} (m : Buffers) (c : List Host.Cell) (h : sp' ≠ sp) :
    (m.set sp c).cells sp' = m.cells sp' := by
  cases sp <;> cases sp' <;> first | rfl | exact absurd rfl h

theorem get?_mem {m : List Host.Cell} {x : Nat} {b : Byte} (h : Memory.get? m x = some b) : (x, b) ∈ m := by
  unfold Memory.get? at h
  obtain ⟨c, hc, rfl⟩ := Option.map_eq_some_iff.mp h
  have h1 := List.find?_some hc
  have h2 := List.mem_of_find?_eq_some hc
  have h3 : c.1 = x := by simpa using h1
  rw [← h3]; exact h2

/-- A byte read after a write: the written byte inside the range and the space, the old one elsewhere (R10, R52). -/
theorem readByte_writeRange (s : State) (sp : Space) (a : Nat) (bs : List Byte) (sp' : Space) (off : Nat) :
    (s.writeRange sp a bs).readByte sp' off =
      if sp' = sp ∧ off < capSize s.caps sp ∧ a ≤ off ∧ off < a + bs.length then bs.getD (off - a) 0
      else s.readByte sp' off := by
  by_cases hs : sp' = sp
  · subst hs
    simp only [State.readByte, State.writeRange, cells_set_self, get?_store, List.length_take, true_and]
    by_cases hc : off < capSize s.caps sp'
    · by_cases hr : a ≤ off ∧ off < a + bs.length
      · have h1 : a ≤ off ∧ off < a + min (capSize s.caps sp' - a) bs.length := by omega
        have h2 : off - a < bs.length := by omega
        have h3 : off - a < capSize s.caps sp' - a := by omega
        simp only [hc, hr, h1, and_self, if_true, List.getElem?_take, h3, List.getElem?_eq_getElem h2]
        rw [List.getD_eq_getElem?_getD, List.getElem?_eq_getElem h2, Option.getD_some]
        by_cases hd : some bs[off - a] = knownUnlisted sp'
        · rw [Option.filter_some, if_neg (by simpa using hd)]
          simp only [unlistedByte, ← hd]
        · simp [Option.filter, hd]
      · have h1 : ¬ (a ≤ off ∧ off < a + min (capSize s.caps sp' - a) bs.length) := by omega
        simp [hc, hr, h1]
    · simp [hc]
  · simp only [State.readByte, State.writeRange, cells_set_of_ne _ _ hs, hs, false_and, if_false]

@[simp] theorem readRange_length (s : State) (sp : Space) (a n : Nat) : (s.readRange sp a n).length = n := by
  simp [State.readRange]

theorem readRange_getElem (s : State) (sp : Space) (a n i : Nat) (h : i < (s.readRange sp a n).length) :
    (s.readRange sp a n)[i] = s.readByte sp (a + i) := by
  simp [State.readRange]

/-- Two states that read every byte of a range alike read the range alike. -/
theorem readRange_congr {s t : State} {sp : Space} {a n : Nat}
    (h : ∀ i, i < n → s.readByte sp (a + i) = t.readByte sp (a + i)) : s.readRange sp a n = t.readRange sp a n := by
  unfold State.readRange
  exact List.map_congr_left fun i hi => h i (List.mem_range.mp hi)

/-- A whole range read back after it was written, when it fits the space. -/
theorem readRange_writeRange_same {s : State} {sp : Space} {a n : Nat} {bs : List Byte} (hn : bs.length = n)
    (hf : a + n ≤ capSize s.caps sp) : (s.writeRange sp a bs).readRange sp a n = bs := by
  apply List.ext_getElem (by simp [hn])
  intro i h1 h2
  rw [readRange_getElem, readByte_writeRange, if_pos ⟨rfl, by omega, by omega, by omega⟩]
  simp [List.getElem?_eq_getElem h2]

/-- A range of another space, or one that does not meet the written one, is read as before. -/
theorem readRange_writeRange_disjoint {s : State} {sp sp' : Space} {a b n : Nat} {bs : List Byte}
    (h : sp' ≠ sp ∨ b + n ≤ a ∨ a + bs.length ≤ b) :
    (s.writeRange sp a bs).readRange sp' b n = s.readRange sp' b n := by
  apply readRange_congr
  intro i hi
  rw [readByte_writeRange, if_neg]
  rintro ⟨h1, -, h2, h3⟩
  rcases h with h | h | h
  · exact h h1
  · omega
  · omega

/-- The zeroized key buffer reads 0 everywhere (`41_key_schedule.md` R136). -/
theorem readByte_zeroKeyBuf_key (s : State) (off : Nat) : s.zeroKeyBuf.readByte .keyBuf off = 0 := by
  have h : unlistedByte s.resets .keyBuf off = 0 := rfl
  simp [State.readByte, State.zeroKeyBuf, Buffers.set, Buffers.cells, Memory.get?, h]

/-- Zeroizing the key buffer leaves every other space alone. -/
theorem readByte_zeroKeyBuf_of_ne (s : State) {sp : Space} (h : sp ≠ .keyBuf) (off : Nat) :
    s.zeroKeyBuf.readByte sp off = s.readByte sp off := by
  cases sp <;> first | rfl | exact absurd rfl h

/-- States that hold the same cells, capacities and reset count read alike. -/
theorem readByte_congr {s t : State} (hm : s.mem = t.mem) (hc : s.caps = t.caps) (hr : s.resets = t.resets) :
    s.readByte = t.readByte := by
  funext sp off; simp only [State.readByte, hm, hc, hr]

theorem memWf_congr {s t : State} (hm : s.mem = t.mem) (hc : s.caps = t.caps) : s.memWf = t.memWf := by
  simp only [State.memWf, hm, hc]

/-- Every space of a machine in canonical form is. -/
theorem memWf_iff (s : State) :
    s.memWf = true ↔ ∀ sp, Memory.wf (knownUnlisted sp) (capSize s.caps sp) (s.mem.cells sp) = true := by
  simp only [State.memWf, Bool.and_eq_true]
  constructor
  · rintro ⟨⟨⟨⟨h1, h2⟩, h3⟩, h4⟩, h5⟩ sp
    cases sp <;> assumption
  · intro h
    exact ⟨⟨⟨⟨h .keyBuf, h .ivBuf⟩, h .aadBuf⟩, h .inBuf⟩, h .outBuf⟩

/-- A write keeps the canonical form. -/
theorem memWf_writeRange {s : State} (sp : Space) (a : Nat) (bs : List Byte) (h : s.memWf = true) :
    (s.writeRange sp a bs).memWf = true := by
  rw [memWf_iff] at h ⊢
  intro sp'
  by_cases hs : sp' = sp
  · subst hs
    simp only [State.writeRange, cells_set_self]
    refine wf_store _ _ (h sp') ?_
    by_cases ha : a ≤ capSize s.caps sp'
    · right; rw [List.length_take]; omega
    · left; rw [show capSize s.caps sp' - a = 0 by omega, List.take_zero]
  · simp only [State.writeRange, cells_set_of_ne _ _ hs]
    exact h sp'

/-- Zeroizing the key buffer keeps the canonical form. -/
theorem memWf_zeroKeyBuf {s : State} (h : s.memWf = true) : s.zeroKeyBuf.memWf = true := by
  rw [memWf_iff] at h ⊢
  intro sp
  cases sp
  · rfl
  all_goals exact h _

end Sys2Proof.Machine
end

