-- ==== Sys2Proof/Laws/State.lean ====
section
/-! SUPPORT. What each named update leaves in each field of State: one lemma per field per update, each true by `rfl`. -/

namespace Sys2Proof.Machine

open Sys2Proof

/-! `writeRange` (R10): only the buffers change. -/

@[simp] theorem writeRange_status (s : State) (sp : Space) (a : Nat) (bs : List Byte) : (s.writeRange sp a bs).status = s.status := rfl
@[simp] theorem writeRange_errcode (s : State) (sp : Space) (a : Nat) (bs : List Byte) : (s.writeRange sp a bs).errcode = s.errcode := rfl
@[simp] theorem writeRange_cfg (s : State) (sp : Space) (a : Nat) (bs : List Byte) : (s.writeRange sp a bs).cfg = s.cfg := rfl
@[simp] theorem writeRange_keylen (s : State) (sp : Space) (a : Nat) (bs : List Byte) : (s.writeRange sp a bs).keylen = s.keylen := rfl
@[simp] theorem writeRange_authkeylen (s : State) (sp : Space) (a : Nat) (bs : List Byte) : (s.writeRange sp a bs).authkeylen = s.authkeylen := rfl
@[simp] theorem writeRange_aadlen (s : State) (sp : Space) (a : Nat) (bs : List Byte) : (s.writeRange sp a bs).aadlen = s.aadlen := rfl
@[simp] theorem writeRange_inlen (s : State) (sp : Space) (a : Nat) (bs : List Byte) : (s.writeRange sp a bs).inlen = s.inlen := rfl
@[simp] theorem writeRange_outlen (s : State) (sp : Space) (a : Nat) (bs : List Byte) : (s.writeRange sp a bs).outlen = s.outlen := rfl
@[simp] theorem writeRange_pp (s : State) (sp : Space) (a : Nat) (bs : List Byte) : (s.writeRange sp a bs).pp = s.pp := rfl
@[simp] theorem writeRange_plen (s : State) (sp : Space) (a : Nat) (bs : List Byte) : (s.writeRange sp a bs).plen = s.plen := rfl
@[simp] theorem writeRange_phase (s : State) (sp : Space) (a : Nat) (bs : List Byte) : (s.writeRange sp a bs).phase = s.phase := rfl
@[simp] theorem writeRange_pend (s : State) (sp : Space) (a : Nat) (bs : List Byte) : (s.writeRange sp a bs).pend = s.pend := rfl
@[simp] theorem writeRange_ctx (s : State) (sp : Space) (a : Nat) (bs : List Byte) : (s.writeRange sp a bs).ctx = s.ctx := rfl
@[simp] theorem writeRange_dir (s : State) (sp : Space) (a : Nat) (bs : List Byte) : (s.writeRange sp a bs).dir = s.dir := rfl
@[simp] theorem writeRange_cryptlen (s : State) (sp : Space) (a : Nat) (bs : List Byte) : (s.writeRange sp a bs).cryptlen = s.cryptlen := rfl
@[simp] theorem writeRange_aadeff (s : State) (sp : Space) (a : Nat) (bs : List Byte) : (s.writeRange sp a bs).aadeff = s.aadeff := rfl
@[simp] theorem writeRange_a0len (s : State) (sp : Space) (a : Nat) (bs : List Byte) : (s.writeRange sp a bs).a0len = s.a0len := rfl
@[simp] theorem writeRange_outw (s : State) (sp : Space) (a : Nat) (bs : List Byte) : (s.writeRange sp a bs).outw = s.outw := rfl
@[simp] theorem writeRange_frame (s : State) (sp : Space) (a : Nat) (bs : List Byte) : (s.writeRange sp a bs).frame = s.frame := rfl
@[simp] theorem writeRange_ce (s : State) (sp : Space) (a : Nat) (bs : List Byte) : (s.writeRange sp a bs).ce = s.ce := rfl
@[simp] theorem writeRange_me (s : State) (sp : Space) (a : Nat) (bs : List Byte) : (s.writeRange sp a bs).me = s.me := rfl
@[simp] theorem writeRange_plan (s : State) (sp : Space) (a : Nat) (bs : List Byte) : (s.writeRange sp a bs).plan = s.plan := rfl
@[simp] theorem writeRange_tags (s : State) (sp : Space) (a : Nat) (bs : List Byte) : (s.writeRange sp a bs).tags = s.tags := rfl
@[simp] theorem writeRange_digs (s : State) (sp : Space) (a : Nat) (bs : List Byte) : (s.writeRange sp a bs).digs = s.digs := rfl
@[simp] theorem writeRange_diglen (s : State) (sp : Space) (a : Nat) (bs : List Byte) : (s.writeRange sp a bs).diglen = s.diglen := rfl
@[simp] theorem writeRange_caps (s : State) (sp : Space) (a : Nat) (bs : List Byte) : (s.writeRange sp a bs).caps = s.caps := rfl
@[simp] theorem writeRange_agenda (s : State) (sp : Space) (a : Nat) (bs : List Byte) : (s.writeRange sp a bs).agenda = s.agenda := rfl
@[simp] theorem writeRange_draws (s : State) (sp : Space) (a : Nat) (bs : List Byte) : (s.writeRange sp a bs).draws = s.draws := rfl
@[simp] theorem writeRange_rdata (s : State) (sp : Space) (a : Nat) (bs : List Byte) : (s.writeRange sp a bs).rdata = s.rdata := rfl
@[simp] theorem writeRange_freeIx (s : State) (sp : Space) (a : Nat) (bs : List Byte) : (s.writeRange sp a bs).freeIx = s.freeIx := rfl
@[simp] theorem writeRange_resets (s : State) (sp : Space) (a : Nat) (bs : List Byte) : (s.writeRange sp a bs).resets = s.resets := rfl
@[simp] theorem writeRange_spOld (s : State) (sp : Space) (a : Nat) (bs : List Byte) : (s.writeRange sp a bs).spOld = s.spOld := rfl

/-! `zeroKeyBuf` (R136): only the buffers change. -/

@[simp] theorem zeroKeyBuf_status (s : State) : s.zeroKeyBuf.status = s.status := rfl
@[simp] theorem zeroKeyBuf_errcode (s : State) : s.zeroKeyBuf.errcode = s.errcode := rfl
@[simp] theorem zeroKeyBuf_cfg (s : State) : s.zeroKeyBuf.cfg = s.cfg := rfl
@[simp] theorem zeroKeyBuf_keylen (s : State) : s.zeroKeyBuf.keylen = s.keylen := rfl
@[simp] theorem zeroKeyBuf_authkeylen (s : State) : s.zeroKeyBuf.authkeylen = s.authkeylen := rfl
@[simp] theorem zeroKeyBuf_aadlen (s : State) : s.zeroKeyBuf.aadlen = s.aadlen := rfl
@[simp] theorem zeroKeyBuf_inlen (s : State) : s.zeroKeyBuf.inlen = s.inlen := rfl
@[simp] theorem zeroKeyBuf_outlen (s : State) : s.zeroKeyBuf.outlen = s.outlen := rfl
@[simp] theorem zeroKeyBuf_pp (s : State) : s.zeroKeyBuf.pp = s.pp := rfl
@[simp] theorem zeroKeyBuf_plen (s : State) : s.zeroKeyBuf.plen = s.plen := rfl
@[simp] theorem zeroKeyBuf_phase (s : State) : s.zeroKeyBuf.phase = s.phase := rfl
@[simp] theorem zeroKeyBuf_pend (s : State) : s.zeroKeyBuf.pend = s.pend := rfl
@[simp] theorem zeroKeyBuf_ctx (s : State) : s.zeroKeyBuf.ctx = s.ctx := rfl
@[simp] theorem zeroKeyBuf_dir (s : State) : s.zeroKeyBuf.dir = s.dir := rfl
@[simp] theorem zeroKeyBuf_cryptlen (s : State) : s.zeroKeyBuf.cryptlen = s.cryptlen := rfl
@[simp] theorem zeroKeyBuf_aadeff (s : State) : s.zeroKeyBuf.aadeff = s.aadeff := rfl
@[simp] theorem zeroKeyBuf_a0len (s : State) : s.zeroKeyBuf.a0len = s.a0len := rfl
@[simp] theorem zeroKeyBuf_outw (s : State) : s.zeroKeyBuf.outw = s.outw := rfl
@[simp] theorem zeroKeyBuf_frame (s : State) : s.zeroKeyBuf.frame = s.frame := rfl
@[simp] theorem zeroKeyBuf_ce (s : State) : s.zeroKeyBuf.ce = s.ce := rfl
@[simp] theorem zeroKeyBuf_me (s : State) : s.zeroKeyBuf.me = s.me := rfl
@[simp] theorem zeroKeyBuf_plan (s : State) : s.zeroKeyBuf.plan = s.plan := rfl
@[simp] theorem zeroKeyBuf_tags (s : State) : s.zeroKeyBuf.tags = s.tags := rfl
@[simp] theorem zeroKeyBuf_digs (s : State) : s.zeroKeyBuf.digs = s.digs := rfl
@[simp] theorem zeroKeyBuf_diglen (s : State) : s.zeroKeyBuf.diglen = s.diglen := rfl
@[simp] theorem zeroKeyBuf_caps (s : State) : s.zeroKeyBuf.caps = s.caps := rfl
@[simp] theorem zeroKeyBuf_agenda (s : State) : s.zeroKeyBuf.agenda = s.agenda := rfl
@[simp] theorem zeroKeyBuf_draws (s : State) : s.zeroKeyBuf.draws = s.draws := rfl
@[simp] theorem zeroKeyBuf_rdata (s : State) : s.zeroKeyBuf.rdata = s.rdata := rfl
@[simp] theorem zeroKeyBuf_freeIx (s : State) : s.zeroKeyBuf.freeIx = s.freeIx := rfl
@[simp] theorem zeroKeyBuf_resets (s : State) : s.zeroKeyBuf.resets = s.resets := rfl
@[simp] theorem zeroKeyBuf_spOld (s : State) : s.zeroKeyBuf.spOld = s.spOld := rfl

/-! `drawn` (R252): only the draws change. -/

@[simp] theorem drawn_status (s : State) : s.drawn.status = s.status := rfl
@[simp] theorem drawn_errcode (s : State) : s.drawn.errcode = s.errcode := rfl
@[simp] theorem drawn_cfg (s : State) : s.drawn.cfg = s.cfg := rfl
@[simp] theorem drawn_keylen (s : State) : s.drawn.keylen = s.keylen := rfl
@[simp] theorem drawn_authkeylen (s : State) : s.drawn.authkeylen = s.authkeylen := rfl
@[simp] theorem drawn_aadlen (s : State) : s.drawn.aadlen = s.aadlen := rfl
@[simp] theorem drawn_inlen (s : State) : s.drawn.inlen = s.inlen := rfl
@[simp] theorem drawn_outlen (s : State) : s.drawn.outlen = s.outlen := rfl
@[simp] theorem drawn_pp (s : State) : s.drawn.pp = s.pp := rfl
@[simp] theorem drawn_plen (s : State) : s.drawn.plen = s.plen := rfl
@[simp] theorem drawn_phase (s : State) : s.drawn.phase = s.phase := rfl
@[simp] theorem drawn_pend (s : State) : s.drawn.pend = s.pend := rfl
@[simp] theorem drawn_ctx (s : State) : s.drawn.ctx = s.ctx := rfl
@[simp] theorem drawn_mem (s : State) : s.drawn.mem = s.mem := rfl
@[simp] theorem drawn_dir (s : State) : s.drawn.dir = s.dir := rfl
@[simp] theorem drawn_cryptlen (s : State) : s.drawn.cryptlen = s.cryptlen := rfl
@[simp] theorem drawn_aadeff (s : State) : s.drawn.aadeff = s.aadeff := rfl
@[simp] theorem drawn_a0len (s : State) : s.drawn.a0len = s.a0len := rfl
@[simp] theorem drawn_outw (s : State) : s.drawn.outw = s.outw := rfl
@[simp] theorem drawn_frame (s : State) : s.drawn.frame = s.frame := rfl
@[simp] theorem drawn_ce (s : State) : s.drawn.ce = s.ce := rfl
@[simp] theorem drawn_me (s : State) : s.drawn.me = s.me := rfl
@[simp] theorem drawn_plan (s : State) : s.drawn.plan = s.plan := rfl
@[simp] theorem drawn_tags (s : State) : s.drawn.tags = s.tags := rfl
@[simp] theorem drawn_digs (s : State) : s.drawn.digs = s.digs := rfl
@[simp] theorem drawn_diglen (s : State) : s.drawn.diglen = s.diglen := rfl
@[simp] theorem drawn_caps (s : State) : s.drawn.caps = s.caps := rfl
@[simp] theorem drawn_agenda (s : State) : s.drawn.agenda = s.agenda := rfl
@[simp] theorem drawn_draws (s : State) : s.drawn.draws = s.draws.tail := rfl
@[simp] theorem drawn_rdata (s : State) : s.drawn.rdata = s.rdata := rfl
@[simp] theorem drawn_freeIx (s : State) : s.drawn.freeIx = s.freeIx := rfl
@[simp] theorem drawn_resets (s : State) : s.drawn.resets = s.resets := rfl
@[simp] theorem drawn_spOld (s : State) : s.drawn.spOld = s.spOld := rfl

/-! `scrub` (R34): the request's registers become zero, nothing else changes. -/

@[simp] theorem scrub_status (s : State) : s.scrub.status = s.status := rfl
@[simp] theorem scrub_errcode (s : State) : s.scrub.errcode = s.errcode := rfl
@[simp] theorem scrub_cfg (s : State) : s.scrub.cfg = s.cfg := rfl
@[simp] theorem scrub_keylen (s : State) : s.scrub.keylen = s.keylen := rfl
@[simp] theorem scrub_authkeylen (s : State) : s.scrub.authkeylen = s.authkeylen := rfl
@[simp] theorem scrub_aadlen (s : State) : s.scrub.aadlen = s.aadlen := rfl
@[simp] theorem scrub_inlen (s : State) : s.scrub.inlen = s.inlen := rfl
@[simp] theorem scrub_outlen (s : State) : s.scrub.outlen = s.outlen := rfl
@[simp] theorem scrub_pp (s : State) : s.scrub.pp = s.pp := rfl
@[simp] theorem scrub_plen (s : State) : s.scrub.plen = s.plen := rfl
@[simp] theorem scrub_phase (s : State) : s.scrub.phase = s.phase := rfl
@[simp] theorem scrub_pend (s : State) : s.scrub.pend = s.pend := rfl
@[simp] theorem scrub_ctx (s : State) : s.scrub.ctx = s.ctx := rfl
@[simp] theorem scrub_mem (s : State) : s.scrub.mem = s.mem := rfl
@[simp] theorem scrub_dir (s : State) : s.scrub.dir = .encrypt := rfl
@[simp] theorem scrub_cryptlen (s : State) : s.scrub.cryptlen = 0 := rfl
@[simp] theorem scrub_aadeff (s : State) : s.scrub.aadeff = 0 := rfl
@[simp] theorem scrub_a0len (s : State) : s.scrub.a0len = 0 := rfl
@[simp] theorem scrub_outw (s : State) : s.scrub.outw = false := rfl
@[simp] theorem scrub_frame (s : State) : s.scrub.frame = zeroFrame := rfl
@[simp] theorem scrub_ce (s : State) : s.scrub.ce = zeroCe := rfl
@[simp] theorem scrub_me (s : State) : s.scrub.me = zeroMe := rfl
@[simp] theorem scrub_plan (s : State) : s.scrub.plan = s.plan := rfl
@[simp] theorem scrub_tags (s : State) : s.scrub.tags = zeroBytes 32 := rfl
@[simp] theorem scrub_digs (s : State) : s.scrub.digs = zeroBytes 32 := rfl
@[simp] theorem scrub_diglen (s : State) : s.scrub.diglen = 0 := rfl
@[simp] theorem scrub_caps (s : State) : s.scrub.caps = s.caps := rfl
@[simp] theorem scrub_agenda (s : State) : s.scrub.agenda = s.agenda := rfl
@[simp] theorem scrub_draws (s : State) : s.scrub.draws = s.draws := rfl
@[simp] theorem scrub_rdata (s : State) : s.scrub.rdata = s.rdata := rfl
@[simp] theorem scrub_freeIx (s : State) : s.scrub.freeIx = s.freeIx := rfl
@[simp] theorem scrub_resets (s : State) : s.scrub.resets = s.resets := rfl
@[simp] theorem scrub_spOld (s : State) : s.scrub.spOld = s.spOld := rfl

/-! `complete` (R109). -/

@[simp] theorem complete_status (s : State) : s.complete.status = s.status.completed := rfl
@[simp] theorem complete_errcode (s : State) : s.complete.errcode = none := rfl
@[simp] theorem complete_cfg (s : State) : s.complete.cfg = s.cfg := rfl
@[simp] theorem complete_keylen (s : State) : s.complete.keylen = s.keylen := rfl
@[simp] theorem complete_authkeylen (s : State) : s.complete.authkeylen = s.authkeylen := rfl
@[simp] theorem complete_aadlen (s : State) : s.complete.aadlen = s.aadlen := rfl
@[simp] theorem complete_inlen (s : State) : s.complete.inlen = s.inlen := rfl
@[simp] theorem complete_outlen (s : State) : s.complete.outlen = s.outlen := rfl
@[simp] theorem complete_pp (s : State) : s.complete.pp = s.pp := rfl
@[simp] theorem complete_plen (s : State) : s.complete.plen = s.plen := rfl
@[simp] theorem complete_phase (s : State) : s.complete.phase = .idle := rfl
@[simp] theorem complete_pend (s : State) : s.complete.pend = .none := rfl
@[simp] theorem complete_ctx (s : State) : s.complete.ctx = s.ctx := rfl
@[simp] theorem complete_mem (s : State) : s.complete.mem = s.mem := rfl
@[simp] theorem complete_dir (s : State) : s.complete.dir = .encrypt := rfl
@[simp] theorem complete_cryptlen (s : State) : s.complete.cryptlen = 0 := rfl
@[simp] theorem complete_aadeff (s : State) : s.complete.aadeff = 0 := rfl
@[simp] theorem complete_a0len (s : State) : s.complete.a0len = 0 := rfl
@[simp] theorem complete_outw (s : State) : s.complete.outw = false := rfl
@[simp] theorem complete_frame (s : State) : s.complete.frame = zeroFrame := rfl
@[simp] theorem complete_ce (s : State) : s.complete.ce = zeroCe := rfl
@[simp] theorem complete_me (s : State) : s.complete.me = zeroMe := rfl
@[simp] theorem complete_plan (s : State) : s.complete.plan = s.plan := rfl
@[simp] theorem complete_tags (s : State) : s.complete.tags = zeroBytes 32 := rfl
@[simp] theorem complete_digs (s : State) : s.complete.digs = zeroBytes 32 := rfl
@[simp] theorem complete_diglen (s : State) : s.complete.diglen = 0 := rfl
@[simp] theorem complete_caps (s : State) : s.complete.caps = s.caps := rfl
@[simp] theorem complete_agenda (s : State) : s.complete.agenda = s.agenda := rfl
@[simp] theorem complete_draws (s : State) : s.complete.draws = s.draws := rfl
@[simp] theorem complete_rdata (s : State) : s.complete.rdata = s.rdata := rfl
@[simp] theorem complete_freeIx (s : State) : s.complete.freeIx = s.freeIx := rfl
@[simp] theorem complete_resets (s : State) : s.complete.resets = s.resets := rfl
@[simp] theorem complete_spOld (s : State) : s.complete.spOld = s.spOld := rfl

/-! `absorb` (R216): only the MAC engine changes. -/

@[simp] theorem absorb_status (s : State) (d : List Byte) : (s.absorb d).status = s.status := rfl
@[simp] theorem absorb_errcode (s : State) (d : List Byte) : (s.absorb d).errcode = s.errcode := rfl
@[simp] theorem absorb_cfg (s : State) (d : List Byte) : (s.absorb d).cfg = s.cfg := rfl
@[simp] theorem absorb_keylen (s : State) (d : List Byte) : (s.absorb d).keylen = s.keylen := rfl
@[simp] theorem absorb_authkeylen (s : State) (d : List Byte) : (s.absorb d).authkeylen = s.authkeylen := rfl
@[simp] theorem absorb_aadlen (s : State) (d : List Byte) : (s.absorb d).aadlen = s.aadlen := rfl
@[simp] theorem absorb_inlen (s : State) (d : List Byte) : (s.absorb d).inlen = s.inlen := rfl
@[simp] theorem absorb_outlen (s : State) (d : List Byte) : (s.absorb d).outlen = s.outlen := rfl
@[simp] theorem absorb_pp (s : State) (d : List Byte) : (s.absorb d).pp = s.pp := rfl
@[simp] theorem absorb_plen (s : State) (d : List Byte) : (s.absorb d).plen = s.plen := rfl
@[simp] theorem absorb_phase (s : State) (d : List Byte) : (s.absorb d).phase = s.phase := rfl
@[simp] theorem absorb_pend (s : State) (d : List Byte) : (s.absorb d).pend = s.pend := rfl
@[simp] theorem absorb_ctx (s : State) (d : List Byte) : (s.absorb d).ctx = s.ctx := rfl
@[simp] theorem absorb_mem (s : State) (d : List Byte) : (s.absorb d).mem = s.mem := rfl
@[simp] theorem absorb_dir (s : State) (d : List Byte) : (s.absorb d).dir = s.dir := rfl
@[simp] theorem absorb_cryptlen (s : State) (d : List Byte) : (s.absorb d).cryptlen = s.cryptlen := rfl
@[simp] theorem absorb_aadeff (s : State) (d : List Byte) : (s.absorb d).aadeff = s.aadeff := rfl
@[simp] theorem absorb_a0len (s : State) (d : List Byte) : (s.absorb d).a0len = s.a0len := rfl
@[simp] theorem absorb_outw (s : State) (d : List Byte) : (s.absorb d).outw = s.outw := rfl
@[simp] theorem absorb_frame (s : State) (d : List Byte) : (s.absorb d).frame = s.frame := rfl
@[simp] theorem absorb_ce (s : State) (d : List Byte) : (s.absorb d).ce = s.ce := rfl
@[simp] theorem absorb_me (s : State) (d : List Byte) : (s.absorb d).me = { s.me with st := macAbsorb s.me.st d } := rfl
@[simp] theorem absorb_plan (s : State) (d : List Byte) : (s.absorb d).plan = s.plan := rfl
@[simp] theorem absorb_tags (s : State) (d : List Byte) : (s.absorb d).tags = s.tags := rfl
@[simp] theorem absorb_digs (s : State) (d : List Byte) : (s.absorb d).digs = s.digs := rfl
@[simp] theorem absorb_diglen (s : State) (d : List Byte) : (s.absorb d).diglen = s.diglen := rfl
@[simp] theorem absorb_caps (s : State) (d : List Byte) : (s.absorb d).caps = s.caps := rfl
@[simp] theorem absorb_agenda (s : State) (d : List Byte) : (s.absorb d).agenda = s.agenda := rfl
@[simp] theorem absorb_draws (s : State) (d : List Byte) : (s.absorb d).draws = s.draws := rfl
@[simp] theorem absorb_rdata (s : State) (d : List Byte) : (s.absorb d).rdata = s.rdata := rfl
@[simp] theorem absorb_freeIx (s : State) (d : List Byte) : (s.absorb d).freeIx = s.freeIx := rfl
@[simp] theorem absorb_resets (s : State) (d : List Byte) : (s.absorb d).resets = s.resets := rfl
@[simp] theorem absorb_spOld (s : State) (d : List Byte) : (s.absorb d).spOld = s.spOld := rfl

/-! `startOutput` (R40): only `OUTW` changes. -/

@[simp] theorem startOutput_status (s : State) : s.startOutput.status = s.status := rfl
@[simp] theorem startOutput_errcode (s : State) : s.startOutput.errcode = s.errcode := rfl
@[simp] theorem startOutput_cfg (s : State) : s.startOutput.cfg = s.cfg := rfl
@[simp] theorem startOutput_keylen (s : State) : s.startOutput.keylen = s.keylen := rfl
@[simp] theorem startOutput_authkeylen (s : State) : s.startOutput.authkeylen = s.authkeylen := rfl
@[simp] theorem startOutput_aadlen (s : State) : s.startOutput.aadlen = s.aadlen := rfl
@[simp] theorem startOutput_inlen (s : State) : s.startOutput.inlen = s.inlen := rfl
@[simp] theorem startOutput_outlen (s : State) : s.startOutput.outlen = s.outlen := rfl
@[simp] theorem startOutput_pp (s : State) : s.startOutput.pp = s.pp := rfl
@[simp] theorem startOutput_plen (s : State) : s.startOutput.plen = s.plen := rfl
@[simp] theorem startOutput_phase (s : State) : s.startOutput.phase = s.phase := rfl
@[simp] theorem startOutput_pend (s : State) : s.startOutput.pend = s.pend := rfl
@[simp] theorem startOutput_ctx (s : State) : s.startOutput.ctx = s.ctx := rfl
@[simp] theorem startOutput_mem (s : State) : s.startOutput.mem = s.mem := rfl
@[simp] theorem startOutput_dir (s : State) : s.startOutput.dir = s.dir := rfl
@[simp] theorem startOutput_cryptlen (s : State) : s.startOutput.cryptlen = s.cryptlen := rfl
@[simp] theorem startOutput_aadeff (s : State) : s.startOutput.aadeff = s.aadeff := rfl
@[simp] theorem startOutput_a0len (s : State) : s.startOutput.a0len = s.a0len := rfl
@[simp] theorem startOutput_outw (s : State) : s.startOutput.outw = true := rfl
@[simp] theorem startOutput_frame (s : State) : s.startOutput.frame = s.frame := rfl
@[simp] theorem startOutput_ce (s : State) : s.startOutput.ce = s.ce := rfl
@[simp] theorem startOutput_me (s : State) : s.startOutput.me = s.me := rfl
@[simp] theorem startOutput_plan (s : State) : s.startOutput.plan = s.plan := rfl
@[simp] theorem startOutput_tags (s : State) : s.startOutput.tags = s.tags := rfl
@[simp] theorem startOutput_digs (s : State) : s.startOutput.digs = s.digs := rfl
@[simp] theorem startOutput_diglen (s : State) : s.startOutput.diglen = s.diglen := rfl
@[simp] theorem startOutput_caps (s : State) : s.startOutput.caps = s.caps := rfl
@[simp] theorem startOutput_agenda (s : State) : s.startOutput.agenda = s.agenda := rfl
@[simp] theorem startOutput_draws (s : State) : s.startOutput.draws = s.draws := rfl
@[simp] theorem startOutput_rdata (s : State) : s.startOutput.rdata = s.rdata := rfl
@[simp] theorem startOutput_freeIx (s : State) : s.startOutput.freeIx = s.freeIx := rfl
@[simp] theorem startOutput_resets (s : State) : s.startOutput.resets = s.resets := rfl
@[simp] theorem startOutput_spOld (s : State) : s.startOutput.spOld = s.spOld := rfl

/-! `loadIv` (R213): only `CE.IV` changes. -/

@[simp] theorem loadIv_status (s : State) (iv : Block) : (s.loadIv iv).status = s.status := rfl
@[simp] theorem loadIv_errcode (s : State) (iv : Block) : (s.loadIv iv).errcode = s.errcode := rfl
@[simp] theorem loadIv_cfg (s : State) (iv : Block) : (s.loadIv iv).cfg = s.cfg := rfl
@[simp] theorem loadIv_keylen (s : State) (iv : Block) : (s.loadIv iv).keylen = s.keylen := rfl
@[simp] theorem loadIv_authkeylen (s : State) (iv : Block) : (s.loadIv iv).authkeylen = s.authkeylen := rfl
@[simp] theorem loadIv_aadlen (s : State) (iv : Block) : (s.loadIv iv).aadlen = s.aadlen := rfl
@[simp] theorem loadIv_inlen (s : State) (iv : Block) : (s.loadIv iv).inlen = s.inlen := rfl
@[simp] theorem loadIv_outlen (s : State) (iv : Block) : (s.loadIv iv).outlen = s.outlen := rfl
@[simp] theorem loadIv_pp (s : State) (iv : Block) : (s.loadIv iv).pp = s.pp := rfl
@[simp] theorem loadIv_plen (s : State) (iv : Block) : (s.loadIv iv).plen = s.plen := rfl
@[simp] theorem loadIv_phase (s : State) (iv : Block) : (s.loadIv iv).phase = s.phase := rfl
@[simp] theorem loadIv_pend (s : State) (iv : Block) : (s.loadIv iv).pend = s.pend := rfl
@[simp] theorem loadIv_ctx (s : State) (iv : Block) : (s.loadIv iv).ctx = s.ctx := rfl
@[simp] theorem loadIv_mem (s : State) (iv : Block) : (s.loadIv iv).mem = s.mem := rfl
@[simp] theorem loadIv_dir (s : State) (iv : Block) : (s.loadIv iv).dir = s.dir := rfl
@[simp] theorem loadIv_cryptlen (s : State) (iv : Block) : (s.loadIv iv).cryptlen = s.cryptlen := rfl
@[simp] theorem loadIv_aadeff (s : State) (iv : Block) : (s.loadIv iv).aadeff = s.aadeff := rfl
@[simp] theorem loadIv_a0len (s : State) (iv : Block) : (s.loadIv iv).a0len = s.a0len := rfl
@[simp] theorem loadIv_outw (s : State) (iv : Block) : (s.loadIv iv).outw = s.outw := rfl
@[simp] theorem loadIv_frame (s : State) (iv : Block) : (s.loadIv iv).frame = s.frame := rfl
@[simp] theorem loadIv_ce (s : State) (iv : Block) : (s.loadIv iv).ce = { s.ce with iv := iv } := rfl
@[simp] theorem loadIv_me (s : State) (iv : Block) : (s.loadIv iv).me = s.me := rfl
@[simp] theorem loadIv_plan (s : State) (iv : Block) : (s.loadIv iv).plan = s.plan := rfl
@[simp] theorem loadIv_tags (s : State) (iv : Block) : (s.loadIv iv).tags = s.tags := rfl
@[simp] theorem loadIv_digs (s : State) (iv : Block) : (s.loadIv iv).digs = s.digs := rfl
@[simp] theorem loadIv_diglen (s : State) (iv : Block) : (s.loadIv iv).diglen = s.diglen := rfl
@[simp] theorem loadIv_caps (s : State) (iv : Block) : (s.loadIv iv).caps = s.caps := rfl
@[simp] theorem loadIv_agenda (s : State) (iv : Block) : (s.loadIv iv).agenda = s.agenda := rfl
@[simp] theorem loadIv_draws (s : State) (iv : Block) : (s.loadIv iv).draws = s.draws := rfl
@[simp] theorem loadIv_rdata (s : State) (iv : Block) : (s.loadIv iv).rdata = s.rdata := rfl
@[simp] theorem loadIv_freeIx (s : State) (iv : Block) : (s.loadIv iv).freeIx = s.freeIx := rfl
@[simp] theorem loadIv_resets (s : State) (iv : Block) : (s.loadIv iv).resets = s.resets := rfl
@[simp] theorem loadIv_spOld (s : State) (iv : Block) : (s.loadIv iv).spOld = s.spOld := rfl

/-! `loadMacKey` (R212): only `ME` changes. -/

@[simp] theorem loadMacKey_status (s : State) (alg : MacAlg) (k : List Byte) : (s.loadMacKey alg k).status = s.status := rfl
@[simp] theorem loadMacKey_errcode (s : State) (alg : MacAlg) (k : List Byte) : (s.loadMacKey alg k).errcode = s.errcode := rfl
@[simp] theorem loadMacKey_cfg (s : State) (alg : MacAlg) (k : List Byte) : (s.loadMacKey alg k).cfg = s.cfg := rfl
@[simp] theorem loadMacKey_keylen (s : State) (alg : MacAlg) (k : List Byte) : (s.loadMacKey alg k).keylen = s.keylen := rfl
@[simp] theorem loadMacKey_authkeylen (s : State) (alg : MacAlg) (k : List Byte) : (s.loadMacKey alg k).authkeylen = s.authkeylen := rfl
@[simp] theorem loadMacKey_aadlen (s : State) (alg : MacAlg) (k : List Byte) : (s.loadMacKey alg k).aadlen = s.aadlen := rfl
@[simp] theorem loadMacKey_inlen (s : State) (alg : MacAlg) (k : List Byte) : (s.loadMacKey alg k).inlen = s.inlen := rfl
@[simp] theorem loadMacKey_outlen (s : State) (alg : MacAlg) (k : List Byte) : (s.loadMacKey alg k).outlen = s.outlen := rfl
@[simp] theorem loadMacKey_pp (s : State) (alg : MacAlg) (k : List Byte) : (s.loadMacKey alg k).pp = s.pp := rfl
@[simp] theorem loadMacKey_plen (s : State) (alg : MacAlg) (k : List Byte) : (s.loadMacKey alg k).plen = s.plen := rfl
@[simp] theorem loadMacKey_phase (s : State) (alg : MacAlg) (k : List Byte) : (s.loadMacKey alg k).phase = s.phase := rfl
@[simp] theorem loadMacKey_pend (s : State) (alg : MacAlg) (k : List Byte) : (s.loadMacKey alg k).pend = s.pend := rfl
@[simp] theorem loadMacKey_ctx (s : State) (alg : MacAlg) (k : List Byte) : (s.loadMacKey alg k).ctx = s.ctx := rfl
@[simp] theorem loadMacKey_mem (s : State) (alg : MacAlg) (k : List Byte) : (s.loadMacKey alg k).mem = s.mem := rfl
@[simp] theorem loadMacKey_dir (s : State) (alg : MacAlg) (k : List Byte) : (s.loadMacKey alg k).dir = s.dir := rfl
@[simp] theorem loadMacKey_cryptlen (s : State) (alg : MacAlg) (k : List Byte) : (s.loadMacKey alg k).cryptlen = s.cryptlen := rfl
@[simp] theorem loadMacKey_aadeff (s : State) (alg : MacAlg) (k : List Byte) : (s.loadMacKey alg k).aadeff = s.aadeff := rfl
@[simp] theorem loadMacKey_a0len (s : State) (alg : MacAlg) (k : List Byte) : (s.loadMacKey alg k).a0len = s.a0len := rfl
@[simp] theorem loadMacKey_outw (s : State) (alg : MacAlg) (k : List Byte) : (s.loadMacKey alg k).outw = s.outw := rfl
@[simp] theorem loadMacKey_frame (s : State) (alg : MacAlg) (k : List Byte) : (s.loadMacKey alg k).frame = s.frame := rfl
@[simp] theorem loadMacKey_ce (s : State) (alg : MacAlg) (k : List Byte) : (s.loadMacKey alg k).ce = s.ce := rfl
@[simp] theorem loadMacKey_me (s : State) (alg : MacAlg) (k : List Byte) : (s.loadMacKey alg k).me = { s.me with alg := alg, key := k } := rfl
@[simp] theorem loadMacKey_plan (s : State) (alg : MacAlg) (k : List Byte) : (s.loadMacKey alg k).plan = s.plan := rfl
@[simp] theorem loadMacKey_tags (s : State) (alg : MacAlg) (k : List Byte) : (s.loadMacKey alg k).tags = s.tags := rfl
@[simp] theorem loadMacKey_digs (s : State) (alg : MacAlg) (k : List Byte) : (s.loadMacKey alg k).digs = s.digs := rfl
@[simp] theorem loadMacKey_diglen (s : State) (alg : MacAlg) (k : List Byte) : (s.loadMacKey alg k).diglen = s.diglen := rfl
@[simp] theorem loadMacKey_caps (s : State) (alg : MacAlg) (k : List Byte) : (s.loadMacKey alg k).caps = s.caps := rfl
@[simp] theorem loadMacKey_agenda (s : State) (alg : MacAlg) (k : List Byte) : (s.loadMacKey alg k).agenda = s.agenda := rfl
@[simp] theorem loadMacKey_draws (s : State) (alg : MacAlg) (k : List Byte) : (s.loadMacKey alg k).draws = s.draws := rfl
@[simp] theorem loadMacKey_rdata (s : State) (alg : MacAlg) (k : List Byte) : (s.loadMacKey alg k).rdata = s.rdata := rfl
@[simp] theorem loadMacKey_freeIx (s : State) (alg : MacAlg) (k : List Byte) : (s.loadMacKey alg k).freeIx = s.freeIx := rfl
@[simp] theorem loadMacKey_resets (s : State) (alg : MacAlg) (k : List Byte) : (s.loadMacKey alg k).resets = s.resets := rfl
@[simp] theorem loadMacKey_spOld (s : State) (alg : MacAlg) (k : List Byte) : (s.loadMacKey alg k).spOld = s.spOld := rfl

/-! `loadHash` (R214): only `ME` changes. -/

@[simp] theorem loadHash_status (s : State) (alg : MacAlg) (st : MacState) : (s.loadHash alg st).status = s.status := rfl
@[simp] theorem loadHash_errcode (s : State) (alg : MacAlg) (st : MacState) : (s.loadHash alg st).errcode = s.errcode := rfl
@[simp] theorem loadHash_cfg (s : State) (alg : MacAlg) (st : MacState) : (s.loadHash alg st).cfg = s.cfg := rfl
@[simp] theorem loadHash_keylen (s : State) (alg : MacAlg) (st : MacState) : (s.loadHash alg st).keylen = s.keylen := rfl
@[simp] theorem loadHash_authkeylen (s : State) (alg : MacAlg) (st : MacState) : (s.loadHash alg st).authkeylen = s.authkeylen := rfl
@[simp] theorem loadHash_aadlen (s : State) (alg : MacAlg) (st : MacState) : (s.loadHash alg st).aadlen = s.aadlen := rfl
@[simp] theorem loadHash_inlen (s : State) (alg : MacAlg) (st : MacState) : (s.loadHash alg st).inlen = s.inlen := rfl
@[simp] theorem loadHash_outlen (s : State) (alg : MacAlg) (st : MacState) : (s.loadHash alg st).outlen = s.outlen := rfl
@[simp] theorem loadHash_pp (s : State) (alg : MacAlg) (st : MacState) : (s.loadHash alg st).pp = s.pp := rfl
@[simp] theorem loadHash_plen (s : State) (alg : MacAlg) (st : MacState) : (s.loadHash alg st).plen = s.plen := rfl
@[simp] theorem loadHash_phase (s : State) (alg : MacAlg) (st : MacState) : (s.loadHash alg st).phase = s.phase := rfl
@[simp] theorem loadHash_pend (s : State) (alg : MacAlg) (st : MacState) : (s.loadHash alg st).pend = s.pend := rfl
@[simp] theorem loadHash_ctx (s : State) (alg : MacAlg) (st : MacState) : (s.loadHash alg st).ctx = s.ctx := rfl
@[simp] theorem loadHash_mem (s : State) (alg : MacAlg) (st : MacState) : (s.loadHash alg st).mem = s.mem := rfl
@[simp] theorem loadHash_dir (s : State) (alg : MacAlg) (st : MacState) : (s.loadHash alg st).dir = s.dir := rfl
@[simp] theorem loadHash_cryptlen (s : State) (alg : MacAlg) (st : MacState) : (s.loadHash alg st).cryptlen = s.cryptlen := rfl
@[simp] theorem loadHash_aadeff (s : State) (alg : MacAlg) (st : MacState) : (s.loadHash alg st).aadeff = s.aadeff := rfl
@[simp] theorem loadHash_a0len (s : State) (alg : MacAlg) (st : MacState) : (s.loadHash alg st).a0len = s.a0len := rfl
@[simp] theorem loadHash_outw (s : State) (alg : MacAlg) (st : MacState) : (s.loadHash alg st).outw = s.outw := rfl
@[simp] theorem loadHash_frame (s : State) (alg : MacAlg) (st : MacState) : (s.loadHash alg st).frame = s.frame := rfl
@[simp] theorem loadHash_ce (s : State) (alg : MacAlg) (st : MacState) : (s.loadHash alg st).ce = s.ce := rfl
@[simp] theorem loadHash_me (s : State) (alg : MacAlg) (st : MacState) : (s.loadHash alg st).me = { alg := alg, key := [], st := st } := rfl
@[simp] theorem loadHash_plan (s : State) (alg : MacAlg) (st : MacState) : (s.loadHash alg st).plan = s.plan := rfl
@[simp] theorem loadHash_tags (s : State) (alg : MacAlg) (st : MacState) : (s.loadHash alg st).tags = s.tags := rfl
@[simp] theorem loadHash_digs (s : State) (alg : MacAlg) (st : MacState) : (s.loadHash alg st).digs = s.digs := rfl
@[simp] theorem loadHash_diglen (s : State) (alg : MacAlg) (st : MacState) : (s.loadHash alg st).diglen = s.diglen := rfl
@[simp] theorem loadHash_caps (s : State) (alg : MacAlg) (st : MacState) : (s.loadHash alg st).caps = s.caps := rfl
@[simp] theorem loadHash_agenda (s : State) (alg : MacAlg) (st : MacState) : (s.loadHash alg st).agenda = s.agenda := rfl
@[simp] theorem loadHash_draws (s : State) (alg : MacAlg) (st : MacState) : (s.loadHash alg st).draws = s.draws := rfl
@[simp] theorem loadHash_rdata (s : State) (alg : MacAlg) (st : MacState) : (s.loadHash alg st).rdata = s.rdata := rfl
@[simp] theorem loadHash_freeIx (s : State) (alg : MacAlg) (st : MacState) : (s.loadHash alg st).freeIx = s.freeIx := rfl
@[simp] theorem loadHash_resets (s : State) (alg : MacAlg) (st : MacState) : (s.loadHash alg st).resets = s.resets := rfl
@[simp] theorem loadHash_spOld (s : State) (alg : MacAlg) (st : MacState) : (s.loadHash alg st).spOld = s.spOld := rfl

/-! `freed`: only the counter of free reads changes. -/

@[simp] theorem freed_status (s : State) : s.freed.status = s.status := rfl
@[simp] theorem freed_errcode (s : State) : s.freed.errcode = s.errcode := rfl
@[simp] theorem freed_cfg (s : State) : s.freed.cfg = s.cfg := rfl
@[simp] theorem freed_keylen (s : State) : s.freed.keylen = s.keylen := rfl
@[simp] theorem freed_authkeylen (s : State) : s.freed.authkeylen = s.authkeylen := rfl
@[simp] theorem freed_aadlen (s : State) : s.freed.aadlen = s.aadlen := rfl
@[simp] theorem freed_inlen (s : State) : s.freed.inlen = s.inlen := rfl
@[simp] theorem freed_outlen (s : State) : s.freed.outlen = s.outlen := rfl
@[simp] theorem freed_pp (s : State) : s.freed.pp = s.pp := rfl
@[simp] theorem freed_plen (s : State) : s.freed.plen = s.plen := rfl
@[simp] theorem freed_phase (s : State) : s.freed.phase = s.phase := rfl
@[simp] theorem freed_pend (s : State) : s.freed.pend = s.pend := rfl
@[simp] theorem freed_ctx (s : State) : s.freed.ctx = s.ctx := rfl
@[simp] theorem freed_mem (s : State) : s.freed.mem = s.mem := rfl
@[simp] theorem freed_dir (s : State) : s.freed.dir = s.dir := rfl
@[simp] theorem freed_cryptlen (s : State) : s.freed.cryptlen = s.cryptlen := rfl
@[simp] theorem freed_aadeff (s : State) : s.freed.aadeff = s.aadeff := rfl
@[simp] theorem freed_a0len (s : State) : s.freed.a0len = s.a0len := rfl
@[simp] theorem freed_outw (s : State) : s.freed.outw = s.outw := rfl
@[simp] theorem freed_frame (s : State) : s.freed.frame = s.frame := rfl
@[simp] theorem freed_ce (s : State) : s.freed.ce = s.ce := rfl
@[simp] theorem freed_me (s : State) : s.freed.me = s.me := rfl
@[simp] theorem freed_plan (s : State) : s.freed.plan = s.plan := rfl
@[simp] theorem freed_tags (s : State) : s.freed.tags = s.tags := rfl
@[simp] theorem freed_digs (s : State) : s.freed.digs = s.digs := rfl
@[simp] theorem freed_diglen (s : State) : s.freed.diglen = s.diglen := rfl
@[simp] theorem freed_caps (s : State) : s.freed.caps = s.caps := rfl
@[simp] theorem freed_agenda (s : State) : s.freed.agenda = s.agenda := rfl
@[simp] theorem freed_draws (s : State) : s.freed.draws = s.draws := rfl
@[simp] theorem freed_rdata (s : State) : s.freed.rdata = s.rdata := rfl
@[simp] theorem freed_freeIx (s : State) : s.freed.freeIx = s.freeIx + 1 := rfl
@[simp] theorem freed_resets (s : State) : s.freed.resets = s.resets := rfl
@[simp] theorem freed_spOld (s : State) : s.freed.spOld = s.spOld := rfl

/-! `accept` (R102). -/

@[simp] theorem accept_status (s : State) (w : Word) : (s.accept w).status = s.status.accepted := rfl
@[simp] theorem accept_errcode (s : State) (w : Word) : (s.accept w).errcode = none := rfl
@[simp] theorem accept_cfg (s : State) (w : Word) : (s.accept w).cfg = s.cfg := rfl
@[simp] theorem accept_keylen (s : State) (w : Word) : (s.accept w).keylen = s.keylen := rfl
@[simp] theorem accept_authkeylen (s : State) (w : Word) : (s.accept w).authkeylen = s.authkeylen := rfl
@[simp] theorem accept_aadlen (s : State) (w : Word) : (s.accept w).aadlen = s.aadlen := rfl
@[simp] theorem accept_inlen (s : State) (w : Word) : (s.accept w).inlen = s.inlen := rfl
@[simp] theorem accept_outlen (s : State) (w : Word) : (s.accept w).outlen = 0 := rfl
@[simp] theorem accept_pp (s : State) (w : Word) : (s.accept w).pp = 0 := rfl
@[simp] theorem accept_plen (s : State) (w : Word) : (s.accept w).plen = 0 := rfl
@[simp] theorem accept_phase (s : State) (w : Word) : (s.accept w).phase = .setup := rfl
@[simp] theorem accept_pend (s : State) (w : Word) : (s.accept w).pend = pendOfWord w := rfl
@[simp] theorem accept_ctx (s : State) (w : Word) : (s.accept w).ctx = s.ctx := rfl
@[simp] theorem accept_mem (s : State) (w : Word) : (s.accept w).mem = s.mem := rfl
@[simp] theorem accept_dir (s : State) (w : Word) : (s.accept w).dir = s.dir := rfl
@[simp] theorem accept_cryptlen (s : State) (w : Word) : (s.accept w).cryptlen = s.cryptlen := rfl
@[simp] theorem accept_aadeff (s : State) (w : Word) : (s.accept w).aadeff = s.aadeff := rfl
@[simp] theorem accept_a0len (s : State) (w : Word) : (s.accept w).a0len = s.a0len := rfl
@[simp] theorem accept_outw (s : State) (w : Word) : (s.accept w).outw = s.outw := rfl
@[simp] theorem accept_frame (s : State) (w : Word) : (s.accept w).frame = s.frame := rfl
@[simp] theorem accept_ce (s : State) (w : Word) : (s.accept w).ce = s.ce := rfl
@[simp] theorem accept_me (s : State) (w : Word) : (s.accept w).me = s.me := rfl
@[simp] theorem accept_plan (s : State) (w : Word) : (s.accept w).plan = zeroPlan := rfl
@[simp] theorem accept_tags (s : State) (w : Word) : (s.accept w).tags = s.tags := rfl
@[simp] theorem accept_digs (s : State) (w : Word) : (s.accept w).digs = s.digs := rfl
@[simp] theorem accept_diglen (s : State) (w : Word) : (s.accept w).diglen = s.diglen := rfl
@[simp] theorem accept_caps (s : State) (w : Word) : (s.accept w).caps = s.caps := rfl
@[simp] theorem accept_agenda (s : State) (w : Word) : (s.accept w).agenda = s.agenda := rfl
@[simp] theorem accept_draws (s : State) (w : Word) : (s.accept w).draws = s.draws := rfl
@[simp] theorem accept_rdata (s : State) (w : Word) : (s.accept w).rdata = s.rdata := rfl
@[simp] theorem accept_freeIx (s : State) (w : Word) : (s.accept w).freeIx = s.freeIx := rfl
@[simp] theorem accept_resets (s : State) (w : Word) : (s.accept w).resets = s.resets := rfl
@[simp] theorem accept_spOld (s : State) (w : Word) : (s.accept w).spOld = s.status.sp := rfl

end Sys2Proof.Machine
end

