-- ==== Sys2Proof/Laws/Ops.lean ====
section
/-! SUPPORT. What each shared operation can do, said once: zeroing the output, raising an error
(`spec/60_exceptions.md` R290), advancing the plan pointer (`spec/40_host_commands.md` R108), preconditions and draws
(`spec/47_primitives.md` R252); and that every meaning goes on. -/

namespace Sys2Proof.Machine

open Sys2Proof

/-! `zeroIfWritten` (R290, R292): only `OUTBUF` can change. -/

/-- The output is zeroed, or nothing happens. -/
theorem zeroIfWritten_cases (s : State) :
    (s.phase = .exec ∧ s.outw = true ∧ s.zeroIfWritten = s.zeroOutput) ∨
      (¬ (s.phase = .exec ∧ s.outw = true) ∧ s.zeroIfWritten = s) := by
  unfold State.zeroIfWritten
  split
  · rename_i h; exact .inl ⟨h.1, h.2, rfl⟩
  · rename_i h; exact .inr ⟨h, rfl⟩

@[simp] theorem zeroIfWritten_status (s : State) : s.zeroIfWritten.status = s.status := by
  unfold State.zeroIfWritten; split <;> rfl
@[simp] theorem zeroIfWritten_ctx (s : State) : s.zeroIfWritten.ctx = s.ctx := by
  unfold State.zeroIfWritten; split <;> rfl
@[simp] theorem zeroIfWritten_caps (s : State) : s.zeroIfWritten.caps = s.caps := by
  unfold State.zeroIfWritten; split <;> rfl
@[simp] theorem zeroIfWritten_resets (s : State) : s.zeroIfWritten.resets = s.resets := by
  unfold State.zeroIfWritten; split <;> rfl
@[simp] theorem zeroIfWritten_agenda (s : State) : s.zeroIfWritten.agenda = s.agenda := by
  unfold State.zeroIfWritten; split <;> rfl
@[simp] theorem zeroIfWritten_draws (s : State) : s.zeroIfWritten.draws = s.draws := by
  unfold State.zeroIfWritten; split <;> rfl
@[simp] theorem zeroIfWritten_outw (s : State) : s.zeroIfWritten.outw = s.outw := by
  unfold State.zeroIfWritten; split <;> rfl
@[simp] theorem zeroIfWritten_phase (s : State) : s.zeroIfWritten.phase = s.phase := by
  unfold State.zeroIfWritten; split <;> rfl
@[simp] theorem zeroIfWritten_cryptlen (s : State) : s.zeroIfWritten.cryptlen = s.cryptlen := by
  unfold State.zeroIfWritten; split <;> rfl
@[simp] theorem zeroIfWritten_cfg (s : State) : s.zeroIfWritten.cfg = s.cfg := by
  unfold State.zeroIfWritten; split <;> rfl
@[simp] theorem zeroIfWritten_keylen (s : State) : s.zeroIfWritten.keylen = s.keylen := by
  unfold State.zeroIfWritten; split <;> rfl
@[simp] theorem zeroIfWritten_authkeylen (s : State) : s.zeroIfWritten.authkeylen = s.authkeylen := by
  unfold State.zeroIfWritten; split <;> rfl
@[simp] theorem zeroIfWritten_aadlen (s : State) : s.zeroIfWritten.aadlen = s.aadlen := by
  unfold State.zeroIfWritten; split <;> rfl
@[simp] theorem zeroIfWritten_inlen (s : State) : s.zeroIfWritten.inlen = s.inlen := by
  unfold State.zeroIfWritten; split <;> rfl
@[simp] theorem zeroIfWritten_pp (s : State) : s.zeroIfWritten.pp = s.pp := by
  unfold State.zeroIfWritten; split <;> rfl
@[simp] theorem zeroIfWritten_plen (s : State) : s.zeroIfWritten.plen = s.plen := by
  unfold State.zeroIfWritten; split <;> rfl
@[simp] theorem zeroIfWritten_plan (s : State) : s.zeroIfWritten.plan = s.plan := by
  unfold State.zeroIfWritten; split <;> rfl
@[simp] theorem zeroIfWritten_rdata (s : State) : s.zeroIfWritten.rdata = s.rdata := by
  unfold State.zeroIfWritten; split <;> rfl
@[simp] theorem zeroIfWritten_freeIx (s : State) : s.zeroIfWritten.freeIx = s.freeIx := by
  unfold State.zeroIfWritten; split <;> rfl
@[simp] theorem zeroIfWritten_spOld (s : State) : s.zeroIfWritten.spOld = s.spOld := by
  unfold State.zeroIfWritten; split <;> rfl

/-! `raise` (R290). -/

@[simp] theorem raise_dir (s : State) (e : CmdError) : (s.raise e).dir = .encrypt := rfl
@[simp] theorem raise_cryptlen (s : State) (e : CmdError) : (s.raise e).cryptlen = 0 := rfl
@[simp] theorem raise_aadeff (s : State) (e : CmdError) : (s.raise e).aadeff = 0 := rfl
@[simp] theorem raise_a0len (s : State) (e : CmdError) : (s.raise e).a0len = 0 := rfl
@[simp] theorem raise_outw (s : State) (e : CmdError) : (s.raise e).outw = false := rfl
@[simp] theorem raise_frame (s : State) (e : CmdError) : (s.raise e).frame = zeroFrame := rfl
@[simp] theorem raise_ce (s : State) (e : CmdError) : (s.raise e).ce = zeroCe := rfl
@[simp] theorem raise_me (s : State) (e : CmdError) : (s.raise e).me = zeroMe := rfl
@[simp] theorem raise_tags (s : State) (e : CmdError) : (s.raise e).tags = zeroBytes 32 := rfl
@[simp] theorem raise_digs (s : State) (e : CmdError) : (s.raise e).digs = zeroBytes 32 := rfl
@[simp] theorem raise_diglen (s : State) (e : CmdError) : (s.raise e).diglen = 0 := rfl
@[simp] theorem raise_outlen (s : State) (e : CmdError) : (s.raise e).outlen = 0 := rfl
@[simp] theorem raise_errcode (s : State) (e : CmdError) : (s.raise e).errcode = some e := rfl
@[simp] theorem raise_status (s : State) (e : CmdError) : (s.raise e).status = s.status.failed := rfl
@[simp] theorem raise_phase (s : State) (e : CmdError) : (s.raise e).phase = .idle := rfl
@[simp] theorem raise_pend (s : State) (e : CmdError) : (s.raise e).pend = .none := rfl
@[simp] theorem raise_mem (s : State) (e : CmdError) : (s.raise e).mem = s.zeroIfWritten.mem := rfl
@[simp] theorem raise_cfg (s : State) (e : CmdError) : (s.raise e).cfg = s.cfg := by simp [State.raise]
@[simp] theorem raise_keylen (s : State) (e : CmdError) : (s.raise e).keylen = s.keylen := by simp [State.raise]
@[simp] theorem raise_authkeylen (s : State) (e : CmdError) : (s.raise e).authkeylen = s.authkeylen := by simp [State.raise]
@[simp] theorem raise_aadlen (s : State) (e : CmdError) : (s.raise e).aadlen = s.aadlen := by simp [State.raise]
@[simp] theorem raise_inlen (s : State) (e : CmdError) : (s.raise e).inlen = s.inlen := by simp [State.raise]
@[simp] theorem raise_pp (s : State) (e : CmdError) : (s.raise e).pp = s.pp := by simp [State.raise]
@[simp] theorem raise_plen (s : State) (e : CmdError) : (s.raise e).plen = s.plen := by simp [State.raise]
@[simp] theorem raise_ctx (s : State) (e : CmdError) : (s.raise e).ctx = s.ctx := by simp [State.raise]
@[simp] theorem raise_plan (s : State) (e : CmdError) : (s.raise e).plan = s.plan := by simp [State.raise]
@[simp] theorem raise_caps (s : State) (e : CmdError) : (s.raise e).caps = s.caps := by simp [State.raise]
@[simp] theorem raise_agenda (s : State) (e : CmdError) : (s.raise e).agenda = s.agenda := by simp [State.raise]
@[simp] theorem raise_draws (s : State) (e : CmdError) : (s.raise e).draws = s.draws := by simp [State.raise]
@[simp] theorem raise_rdata (s : State) (e : CmdError) : (s.raise e).rdata = s.rdata := by simp [State.raise]
@[simp] theorem raise_freeIx (s : State) (e : CmdError) : (s.raise e).freeIx = s.freeIx := by simp [State.raise]
@[simp] theorem raise_resets (s : State) (e : CmdError) : (s.raise e).resets = s.resets := by simp [State.raise]
@[simp] theorem raise_spOld (s : State) (e : CmdError) : (s.raise e).spOld = s.spOld := by simp [State.raise]

/-! `advance` (R108). -/

/-- The plan's last operation completes the request; any other moves to the next word. -/
theorem advance_cases (s : State) :
    (s.pp + 1 = s.plen ∧ s.advance = { s with pp := s.pp + 1 }.complete) ∨
      (s.pp + 1 ≠ s.plen ∧ s.advance = { s with pp := s.pp + 1 }) := by
  unfold State.advance
  split
  · rename_i h; exact .inl ⟨h, rfl⟩
  · rename_i h; exact .inr ⟨h, rfl⟩

@[simp] theorem advance_cfg (s : State) : s.advance.cfg = s.cfg := by
  unfold State.advance; split <;> rfl
@[simp] theorem advance_keylen (s : State) : s.advance.keylen = s.keylen := by
  unfold State.advance; split <;> rfl
@[simp] theorem advance_authkeylen (s : State) : s.advance.authkeylen = s.authkeylen := by
  unfold State.advance; split <;> rfl
@[simp] theorem advance_aadlen (s : State) : s.advance.aadlen = s.aadlen := by
  unfold State.advance; split <;> rfl
@[simp] theorem advance_inlen (s : State) : s.advance.inlen = s.inlen := by
  unfold State.advance; split <;> rfl
@[simp] theorem advance_plen (s : State) : s.advance.plen = s.plen := by
  unfold State.advance; split <;> rfl
@[simp] theorem advance_ctx (s : State) : s.advance.ctx = s.ctx := by
  unfold State.advance; split <;> rfl
@[simp] theorem advance_plan (s : State) : s.advance.plan = s.plan := by
  unfold State.advance; split <;> rfl
@[simp] theorem advance_caps (s : State) : s.advance.caps = s.caps := by
  unfold State.advance; split <;> rfl
@[simp] theorem advance_agenda (s : State) : s.advance.agenda = s.agenda := by
  unfold State.advance; split <;> rfl
@[simp] theorem advance_draws (s : State) : s.advance.draws = s.draws := by
  unfold State.advance; split <;> rfl
@[simp] theorem advance_rdata (s : State) : s.advance.rdata = s.rdata := by
  unfold State.advance; split <;> rfl
@[simp] theorem advance_freeIx (s : State) : s.advance.freeIx = s.freeIx := by
  unfold State.advance; split <;> rfl
@[simp] theorem advance_resets (s : State) : s.advance.resets = s.resets := by
  unfold State.advance; split <;> rfl
@[simp] theorem advance_spOld (s : State) : s.advance.spOld = s.spOld := by
  unfold State.advance; split <;> rfl
@[simp] theorem advance_outlen (s : State) : s.advance.outlen = s.outlen := by
  unfold State.advance; split <;> rfl
@[simp] theorem advance_mem (s : State) : s.advance.mem = s.mem := by
  unfold State.advance; split <;> rfl
@[simp] theorem advance_pp (s : State) : s.advance.pp = s.pp + 1 := by
  unfold State.advance; split <;> rfl
@[simp] theorem advance_ctxv (s : State) : s.advance.status.ctxv = s.status.ctxv := by
  unfold State.advance; split <;> rfl
@[simp] theorem advance_sp (s : State) : s.advance.status.sp = s.status.sp := by
  unfold State.advance; split <;> rfl

/-! Preconditions and draws. -/

theorem require_of_true {s : State} {pre : Bool} (k : State → State) (h : pre = true) : s.require pre k = k s := by
  simp [State.require, h]

theorem require_of_false {s : State} {pre : Bool} (k : State → State) (h : pre = false) :
    s.require pre k = s.raise .illegalCommand := by
  simp [State.require, h]

theorem primitiveCall_of_true {s : State} (k : State → State) (h : s.draw = true) :
    s.primitiveCall k = s.drawn.raise .engineError := by
  simp [State.primitiveCall, h]

theorem primitiveCall_of_false {s : State} (k : State → State) (h : s.draw = false) :
    s.primitiveCall k = k s.drawn := by
  simp [State.primitiveCall, h]

@[simp] theorem startOutput_draw (s : State) : s.startOutput.draw = s.draw := rfl

/-! Reads of bytes through the updates that leave the buffers alone. -/

@[simp] theorem readByte_scrub (s : State) : s.scrub.readByte = s.readByte := rfl
@[simp] theorem readByte_complete (s : State) : s.complete.readByte = s.readByte := rfl
@[simp] theorem readByte_drawn (s : State) : s.drawn.readByte = s.readByte := rfl
@[simp] theorem readByte_absorb (s : State) (d : List Byte) : (s.absorb d).readByte = s.readByte := rfl
@[simp] theorem readByte_startOutput (s : State) : s.startOutput.readByte = s.readByte := rfl
@[simp] theorem readByte_loadIv (s : State) (iv : Block) : (s.loadIv iv).readByte = s.readByte := rfl
@[simp] theorem readByte_accept (s : State) (w : Word) : (s.accept w).readByte = s.readByte := rfl

@[simp] theorem readByte_advance (s : State) : s.advance.readByte = s.readByte :=
  readByte_congr (by simp) (by simp) (by simp)

theorem readByte_raise (s : State) (e : CmdError) : (s.raise e).readByte = s.zeroIfWritten.readByte :=
  readByte_congr rfl (by simp) (by simp)

/-- Raising an error outside a payload-writing request leaves every byte alone. -/
theorem readByte_raise_of_setup {s : State} (e : CmdError) (h : ¬ (s.phase = .exec ∧ s.outw = true)) :
    (s.raise e).readByte = s.readByte := by
  rw [readByte_raise, State.zeroIfWritten, if_neg h]

/-- Zeroing the output (R244, R292), byte by byte. -/
theorem readByte_zeroOutput (s : State) (sp : Space) (off : Nat) :
    s.zeroOutput.readByte sp off = if sp = .outBuf ∧ off < s.cryptlen.toNat then 0 else s.readByte sp off := by
  unfold State.zeroOutput
  rw [readByte_writeRange]
  by_cases hs : sp = .outBuf
  · subst hs
    by_cases hc : off < capSize s.caps .outBuf
    · by_cases ho : off < s.cryptlen.toNat <;> simp [hc, ho, zeros, List.getD_eq_getElem?_getD]
    · simp [hc, State.readByte]
  · simp [hs]

/-! Every meaning goes on: no instruction faults or is refused. -/

theorem exec_next (i : Instr) (s : State) : ∃ t, exec i s = .next t := by
  cases i with
  | setkey => simp only [exec, execSetkey]; repeat' split
              all_goals exact ⟨_, rfl⟩
  | keyldMeXcbc => simp only [exec, execKeyldMeXcbc]; split <;> exact ⟨_, rfl⟩
  | stldMeIpad => simp only [exec, execStldMeIpad]; split <;> exact ⟨_, rfl⟩
  | stldMeOpad => simp only [exec, execStldMeOpad]; split <;> exact ⟨_, rfl⟩
  | _ => exact ⟨_, rfl⟩

/-- A turn of the sequencer goes on unless no step is enabled while `BUSY = 1` (log 18). -/
theorem sequencerTurn_next {s : State} (h : s.fetch ≠ .dead) : ∃ t, sequencerTurn s = .next t := by
  unfold sequencerTurn
  split
  · exact exec_next _ _
  · exact ⟨_, rfl⟩
  · exact ⟨_, rfl⟩
  · contradiction

end Sys2Proof.Machine
end

