-- ==== Sys2Proof/Laws/Outcome.lean ====
section
/-! SUPPORT. What an operation step can do to the control part of the state: it advances past the operation or it raises an
error (`spec/40_host_commands.md` R108, `spec/60_exceptions.md` R290). -/

namespace Sys2Proof.Machine

open Sys2Proof

/-- Two states with the same control part: session, flags, plan position, phase and agenda. -/
structure SameControl (s u : State) : Prop where
  ctx : u.ctx = s.ctx
  status : u.status = s.status
  pp : u.pp = s.pp
  plen : u.plen = s.plen
  plan : u.plan = s.plan
  phase : u.phase = s.phase
  pend : u.pend = s.pend
  agenda : u.agenda = s.agenda

/-- `t` is what an operation step leaves of `s`: the step advanced or raised, from a state with the control part of `s`. -/
def StepLeaves (s t : State) : Prop := ∃ u, SameControl s u ∧ (t = u.advance ∨ ∃ e, t = u.raise e)

theorem SameControl.refl (s : State) : SameControl s s := ⟨rfl, rfl, rfl, rfl, rfl, rfl, rfl, rfl⟩

theorem StepLeaves.of_advance {s u : State} (h : SameControl s u) : StepLeaves s u.advance := ⟨u, h, .inl rfl⟩

theorem StepLeaves.of_raise {s u : State} (h : SameControl s u) (e : CmdError) : StepLeaves s (u.raise e) :=
  ⟨u, h, .inr ⟨e, rfl⟩⟩

theorem StepLeaves.of_require {s : State} {pre : Bool} {k : State → State} (h : StepLeaves s (k s)) :
    StepLeaves s (s.require pre k) := by
  unfold State.require
  split
  · exact h
  · exact .of_raise (.refl s) _

theorem StepLeaves.of_primitiveCall {s u : State} {k : State → State} (hu : SameControl s u.drawn)
    (h : StepLeaves s (k u.drawn)) : StepLeaves s (u.primitiveCall k) := by
  unfold State.primitiveCall
  split
  · exact .of_raise hu _
  · exact h

/-- Every plan operation advances or raises. -/
theorem exec_planOp_leaves {s t : State} {i : Instr} (hi : i.format = .opw) (h : exec i s = .next t) : StepLeaves s t := by
  have same : ∀ {u : State}, u.ctx = s.ctx ∧ u.status = s.status ∧ u.pp = s.pp ∧ u.plen = s.plen ∧ u.plan = s.plan
      ∧ u.phase = s.phase ∧ u.pend = s.pend ∧ u.agenda = s.agenda → SameControl s u :=
    fun ⟨h1, h2, h3, h4, h5, h6, h7, h8⟩ => ⟨h1, h2, h3, h4, h5, h6, h7, h8⟩
  have adv : ∀ {u : State}, u.ctx = s.ctx ∧ u.status = s.status ∧ u.pp = s.pp ∧ u.plen = s.plen ∧ u.plan = s.plan
      ∧ u.phase = s.phase ∧ u.pend = s.pend ∧ u.agenda = s.agenda → StepLeaves s u.advance := fun hu => .of_advance (same hu)
  have eq8 : ∀ {α β γ δ ε ζ η θ : Type} {a : α} {b : β} {c : γ} {d : δ} {e : ε} {f : ζ} {g : η} {i : θ},
      a = a ∧ b = b ∧ c = c ∧ d = d ∧ e = e ∧ f = f ∧ g = g ∧ i = i := ⟨rfl, rfl, rfl, rfl, rfl, rfl, rfl, rfl⟩
  cases i with
  | setkey => cases hi
  | enc => cases hi
  | dec => cases hi
  | clrkey => cases hi
  | keyldCe m d => cases h; exact adv eq8
  | keyldMeXcbc =>
    simp only [exec, execKeyldMeXcbc] at h; split at h <;> cases h
    · exact .of_require (adv eq8)
    · exact .of_raise (.refl s) _
    · exact .of_raise (.refl s) _
  | keyldMeCbcmac => cases h; exact adv eq8
  | keyldMeGhash => cases h; exact .of_require (adv eq8)
  | stldCeCiv => cases h; exact adv eq8
  | stldCeCtr0p1 => cases h; exact adv eq8
  | stldCeJ2 => cases h; exact adv eq8
  | stldMeIpad =>
    simp only [exec, execStldMeIpad] at h; split at h <;> cases h
    · exact adv eq8
    · exact .of_raise (.refl s) _
  | stldMeOpad =>
    simp only [exec, execStldMeOpad] at h; split at h <;> cases h
    · exact adv eq8
    · exact .of_raise (.refl s) _
  | stldMeZero => cases h; exact .of_require (adv eq8)
  | habs src pad => cases h; exact .of_require (.of_primitiveCall (same eq8) (adv eq8))
  | capp => cases h; exact .of_require (.of_primitiveCall (same eq8) (adv eq8))
  | fuse side pad => cases h; exact .of_require (.of_primitiveCall (same eq8) (adv eq8))
  | copy => cases h; exact .of_require (adv eq8)
  | hdrv => cases h; exact .of_require (.of_primitiveCall (same eq8) (adv eq8))
  | hfin => cases h; exact .of_require (.of_primitiveCall (same eq8) (adv eq8))
  | hext d => cases h; exact .of_require (by cases d <;> exact adv eq8)
  | ctag b => cases h; exact .of_require (.of_primitiveCall (same eq8) (adv eq8))
  | tagout m =>
    cases h
    refine .of_require ?_
    cases m with
    | store => exact adv eq8
    | cmp =>
      show StepLeaves s s.compareTag
      unfold State.compareTag
      split
      · exact adv eq8
      · exact .of_raise (s := s) (u := s.zeroOutput) (same eq8) _

end Sys2Proof.Machine
end

