-- ==== Sys2Proof/Laws/PerInstr.lean ====
section
/-! SUPPORT. Statements made instruction by instruction: every well-formed instruction's word has the fixed bits of its row of
the opcode table (`spec/30_encoding.md` R71, R81 to R83, R89). -/

namespace Sys2Proof.Laws.RowMatch

open Sys2Proof

/-- The mask and the match of an instruction's row of `spec/opcode_table.json`. -/
def row : Instr → Word × Word
  | .setkey => (0xffffffff, 0x00000001)
  | .enc => (0xffffffff, 0x00000002)
  | .dec => (0xffffffff, 0x00000003)
  | .clrkey => (0xffffffff, 0x00000004)
  | .keyldCe _ _ => (0xffffbf9f, 0x00000001)
  | .keyldMeXcbc => (0xffffffff, 0x00000051)
  | .keyldMeCbcmac => (0xffffffff, 0x00000071)
  | .keyldMeGhash => (0xffffffff, 0x00000091)
  | .stldCeCiv => (0xffffffff, 0x00000002)
  | .stldCeCtr0p1 => (0xffffffff, 0x00000022)
  | .stldCeJ2 => (0xffffffff, 0x00000042)
  | .stldMeIpad => (0xffffffff, 0x00000012)
  | .stldMeOpad => (0xffffffff, 0x00000032)
  | .stldMeZero => (0xffffffff, 0x00000052)
  | .habs _ _ => (0xffffe11f, 0x00000003)
  | .capp => (0xffffffff, 0x00000004)
  | .fuse _ _ => (0xffffc1ff, 0x00000005)
  | .copy => (0xffffffff, 0x00000006)
  | .hdrv => (0xffffffff, 0x00000007)
  | .hfin => (0xffffffff, 0x00000008)
  | .hext _ => (0xffffffdf, 0x00000009)
  | .ctag _ => (0xffffffdf, 0x0000000a)
  | .tagout _ => (0xffffbfff, 0x0000000b)

/-- The word of a well-formed instruction matches its row. -/
def Statement (i : Instr) : Prop := i.wellFormed = true → encode i &&& (row i).1 = (row i).2

theorem setkey : Statement .setkey := fun _ => rfl

theorem enc : Statement .enc := fun _ => rfl

theorem dec : Statement .dec := fun _ => rfl

theorem clrkey : Statement .clrkey := fun _ => rfl

theorem keyldCe (mode : CeMode) (dir : Dir) : Statement (.keyldCe mode dir) := by
  intro _
  cases mode <;> cases dir <;> rfl

theorem keyldMeXcbc : Statement .keyldMeXcbc := fun _ => rfl

theorem keyldMeCbcmac : Statement .keyldMeCbcmac := fun _ => rfl

theorem keyldMeGhash : Statement .keyldMeGhash := fun _ => rfl

theorem stldCeCiv : Statement .stldCeCiv := fun _ => rfl

theorem stldCeCtr0p1 : Statement .stldCeCtr0p1 := fun _ => rfl

theorem stldCeJ2 : Statement .stldCeJ2 := fun _ => rfl

theorem stldMeIpad : Statement .stldMeIpad := fun _ => rfl

theorem stldMeOpad : Statement .stldMeOpad := fun _ => rfl

theorem stldMeZero : Statement .stldMeZero := fun _ => rfl

theorem habs (src : AbsSrc) (pad : Nat) : Statement (.habs src pad) := by
  intro h
  have hp : pad < 16 := by simpa [Instr.wellFormed, padOk] using h
  clear h
  cases src <;> interval_cases pad <;> rfl

theorem capp : Statement .capp := fun _ => rfl

theorem fuse (side : Side) (pad : Nat) : Statement (.fuse side pad) := by
  intro h
  have hp : pad < 16 := by simpa [Instr.wellFormed, padOk] using h
  clear h
  cases side <;> interval_cases pad <;> rfl

theorem copy : Statement .copy := fun _ => rfl

theorem hdrv : Statement .hdrv := fun _ => rfl

theorem hfin : Statement .hfin := fun _ => rfl

theorem hext (dst : ExtDst) : Statement (.hext dst) := by
  intro _
  cases dst <;> rfl

theorem ctag (blk : MaskBlk) : Statement (.ctag blk) := by
  intro _
  cases blk <;> rfl

theorem tagout (mode : TagMode) : Statement (.tagout mode) := by
  intro _
  cases mode <;> rfl

end Sys2Proof.Laws.RowMatch
end

