-- ==== Sys2Proof/Tests/Slice0.lean ====
section
/-! SUPPORT. Tests. Expected values come from the encodings and the worked examples of `spec/`: R80 to R88, R137, R151, R169,
R179, R209. The second half holds, for every statement with hypotheses, states and operands that meet them. -/

namespace Sys2Proof.Tests

open Sys2Proof Sys2Proof.Machine Sys2Proof.Safety

/-! ### Well-formedness refuses -/

theorem test_wellFormed_refuses_habs_pad : Instr.wellFormed (.habs .aad 16) = false := by decide
theorem test_wellFormed_refuses_fuse_pad : Instr.wellFormed (.fuse .output 16) = false := by decide

/-! ### Decoding words written out from R71 and R80 to R82: `OPC`, `ENG` at bit 4, `SEL` at 5, `PAD` at 9, `HSEL` at 13,
`DIR` at 14 -/

theorem test_decode_setkey : decode .cmdw 0x00000001 = .ok .setkey := rfl
theorem test_decode_enc : decode .cmdw 0x00000002 = .ok .enc := rfl
theorem test_decode_dec : decode .cmdw 0x00000003 = .ok .dec := rfl
theorem test_decode_clrkey : decode .cmdw 0x00000004 = .ok .clrkey := rfl
theorem test_decode_keyldCe_ecb : decode .opw 0x00000001 = .ok (.keyldCe .ecb .encrypt) := rfl
theorem test_decode_keyldCe_gctr : decode .opw 0x00004061 = .ok (.keyldCe .gctr .decrypt) := rfl
theorem test_decode_keyldMeXcbc : decode .opw 0x00000051 = .ok .keyldMeXcbc := rfl
theorem test_decode_keyldMeCbcmac : decode .opw 0x00000071 = .ok .keyldMeCbcmac := rfl
theorem test_decode_keyldMeGhash : decode .opw 0x00000091 = .ok .keyldMeGhash := rfl
theorem test_decode_stldCeCiv : decode .opw 0x00000002 = .ok .stldCeCiv := rfl
theorem test_decode_stldCeCtr0p1 : decode .opw 0x00000022 = .ok .stldCeCtr0p1 := rfl
theorem test_decode_stldCeJ2 : decode .opw 0x00000042 = .ok .stldCeJ2 := rfl
theorem test_decode_stldMeIpad : decode .opw 0x00000012 = .ok .stldMeIpad := rfl
theorem test_decode_stldMeOpad : decode .opw 0x00000032 = .ok .stldMeOpad := rfl
theorem test_decode_stldMeZero : decode .opw 0x00000052 = .ok .stldMeZero := rfl
theorem test_decode_habs_aad : decode .opw 0x00000C03 = .ok (.habs .aad 6) := rfl
theorem test_decode_habs_iv8 : decode .opw 0x00001EE3 = .ok (.habs .iv8 15) := rfl
theorem test_decode_capp : decode .opw 0x00000004 = .ok .capp := rfl
theorem test_decode_fuse_out : decode .opw 0x00003205 = .ok (.fuse .output 9) := rfl
theorem test_decode_fuse_in : decode .opw 0x00001205 = .ok (.fuse .input 9) := rfl
theorem test_decode_copy : decode .opw 0x00000006 = .ok .copy := rfl
theorem test_decode_hdrv : decode .opw 0x00000007 = .ok .hdrv := rfl
theorem test_decode_hfin : decode .opw 0x00000008 = .ok .hfin := rfl
theorem test_decode_hext_tags : decode .opw 0x00000009 = .ok (.hext .tags) := rfl
theorem test_decode_hext_digs : decode .opw 0x00000029 = .ok (.hext .digs) := rfl
theorem test_decode_ctag_ctr0 : decode .opw 0x0000000A = .ok (.ctag .ctr0) := rfl
theorem test_decode_ctag_j1 : decode .opw 0x0000002A = .ok (.ctag .j1) := rfl
theorem test_decode_tagout_store : decode .opw 0x0000000B = .ok (.tagout .store) := rfl
theorem test_decode_tagout_cmp : decode .opw 0x0000400B = .ok (.tagout .cmp) := rfl

/-- Whether a word is reserved in a format. -/
def isReserved (f : Format) (w : Word) : Bool :=
  match decode f w with
  | .ok _ => false
  | .error _ => true

/-- Every clause of R83, one word each: opcodes 0, 12 and 15; `SEL` 1 of `KEYLD ME`, 3 of `STLD`, 1 of `CAPP`; `ENG` with
`HABS`; `PAD`, `HSEL` and `DIR` with `CAPP`; bits 15 and 31. -/
theorem test_reserved_plan_words :
    ([0x00000000, 0x0000000C, 0x0000000F, 0x00000031, 0x00000062, 0x00000024, 0x00000013, 0x00000204, 0x00002004,
      0x00004004, 0x00008004, 0x80000003] : List Word).all (isReserved .opw) = true := by decide

/-- R86: `COP` 0, 5 and 15, and a set bit above. -/
theorem test_reserved_commands :
    ([0x00000000, 0x00000005, 0x0000000F, 0x00000011, 0x80000001] : List Word).all (isReserved .cmdw) = true := by decide

theorem test_decodeTableWord : decodeTableWord 32 0x00001205 = some (.fuse .input 9) := by decide

/-! ### Configuration words (R137) and the length checks -/

theorem test_cfg_hmac_sha256 :
    legalCfg 0x00002004 = some { cipherMode := .cbc, authMode := .hmacSha256, family := .aes, wrap := .none, tagLen := 32 } := by
  decide
theorem test_cfg_rfc4106 :
    legalCfg 0x0000106F = some { cipherMode := .gctr, authMode := .none, family := .aes, wrap := .rfc4106, tagLen := 16 } := by
  decide

/-- R85, R86: `TAGLEN` 0 and 21 with HMAC-SHA1, bit 14, `WRAP` 5, and CCM over 3DES. -/
theorem test_cfg_refused :
    ([0x00000000, 0x00001500, 0x00004C00, 0x00000CA0, 0x0000081E] : List Word).all (fun w => (legalCfg w).isNone) = true := by
  decide

/-! ### The Mode Selector: the rows of R151 -/

/-- A context as R151 describes it. -/
def ctxOf (c : CipherMode) (a : AuthMode) (f : Family) (w : Wrap) (t : BitVec 6) : Ctx :=
  { zeroCtx with cipherMode := c, authMode := a, family := f, wrap := w, tagLen := t }

/-- HMAC-SHA1 over CBC with AES, tag 12. -/
def cbcCtx : Ctx := ctxOf .cbc .hmacSha1 .aes .none 12
/-- HMAC-SHA1 over CBC with 3DES, tag 20. -/
def cbc3Ctx : Ctx := ctxOf .cbc .hmacSha1 .tdes .none 20
/-- HMAC-SHA1 over CTR with the RFC 3686 wrapper, tag 20. -/
def ctrCtx : Ctx := ctxOf .ctr .hmacSha1 .aes .rfc3686 20
/-- CCM, tag 8. -/
def ccmCtx : Ctx := ctxOf .ccm .none .aes .none 8
/-- GCM, RFC 4106 and RFC 4543, tag 16. -/
def gcmCtx (w : Wrap) : Ctx := ctxOf .gctr .none .aes w 16

theorem test_r151_cbc_double :
    modeSelect Config.defaultCaps cbcCtx .encrypt 32 5 = .ok { cryptlen := 32, aadeff := 5, sp := false } := by rfl
theorem test_r151_cbc_ragged : modeSelect Config.defaultCaps cbcCtx .encrypt 17 0 = .error .invalidLength := by rfl
theorem test_r151_short : modeSelect Config.defaultCaps cbcCtx .decrypt 11 0 = .error .invalidLength := by rfl
theorem test_r151_empty : modeSelect Config.defaultCaps cbcCtx .decrypt 12 0 = .ok { cryptlen := 0, aadeff := 0, sp := true } := by
  rfl
theorem test_r151_3des : modeSelect Config.defaultCaps cbc3Ctx .encrypt 24 4 = .ok { cryptlen := 24, aadeff := 4, sp := true } := by
  rfl
theorem test_r151_ctr_double :
    modeSelect Config.defaultCaps ctrCtx .encrypt 30 16 = .ok { cryptlen := 30, aadeff := 16, sp := false } := by rfl
theorem test_r151_ccm : modeSelect Config.defaultCaps ccmCtx .encrypt 23 8 = .ok { cryptlen := 23, aadeff := 8, sp := true } := by
  rfl
theorem test_r151_rfc4106_aad :
    modeSelect Config.defaultCaps (gcmCtx .rfc4106) .encrypt 20 12 = .error .invalidAssociatedDataLength := by rfl
theorem test_r151_rfc4543 :
    modeSelect Config.defaultCaps (gcmCtx .rfc4543) .encrypt 20 20 = .ok { cryptlen := 20, aadeff := 12, sp := false } := by rfl
theorem test_r151_capacity : modeSelect Config.defaultCaps cbcCtx .encrypt 65568 0 = .error .invalidLength := by rfl

/-! ### Frames: R169 and R179 -/

/-- The IV block of RFC 3610 vector 1 (R169 (a)). -/
def iv3610 : List Byte :=
  [0x01, 0x00, 0x00, 0x00, 0x03, 0x02, 0x01, 0x00, 0xA0, 0xA1, 0xA2, 0xA3, 0xA4, 0xA5, 0x00, 0x00]

/-- What a frame holds, as byte lists: `B0`, `A0`, `CTR0`, `J2`, `LEN`. -/
def frameBytes (r : Except CmdError (Frame × BitVec 3)) : List (List Byte) :=
  match r with
  | .ok (f, _) => [f.b0.toList, f.a0.toList, f.ctr0.toList, f.j2.toList, f.len.toList]
  | .error _ => []

theorem test_r169_a : ((frameBytes (frameBuild ccmCtx iv3610 23 8)).take 3) =
    [[0x59, 0x00, 0x00, 0x00, 0x03, 0x02, 0x01, 0x00, 0xA0, 0xA1, 0xA2, 0xA3, 0xA4, 0xA5, 0x00, 0x17],
     [0x00, 0x08] ++ zeros 14,
     [0x01, 0x00, 0x00, 0x00, 0x03, 0x02, 0x01, 0x00, 0xA0, 0xA1, 0xA2, 0xA3, 0xA4, 0xA5, 0x00, 0x00]] := by decide
theorem test_r169_c : frameBuild ccmCtx iv3610 65536 8 = .error .lengthOverflow := by rfl
theorem test_r169_d : frameBuild ccmCtx (0x08 :: iv3610.tail) 4 0 = .error .invalidIvFormat := by rfl

/-- The nonce of R179. -/
def iv179 : List Byte := [0xCA, 0xFE, 0xBA, 0xBE, 0xFA, 0xCE, 0xDB, 0xAD, 0xDE, 0xCA, 0xF8, 0x88, 0, 0, 0, 0]

theorem test_r179_a : ((frameBytes (frameBuild (gcmCtx .none) iv179 60 20)).drop 3) =
    [[0xCA, 0xFE, 0xBA, 0xBE, 0xFA, 0xCE, 0xDB, 0xAD, 0xDE, 0xCA, 0xF8, 0x88, 0, 0, 0, 2],
     [0, 0, 0, 0, 0, 0, 0, 0xA0, 0, 0, 0, 0, 0, 0, 0x01, 0xE0]] := by decide
theorem test_r179_d : ((frameBytes (frameBuild (gcmCtx .rfc4543) iv179 20 8)).drop 4) =
    [[0, 0, 0, 0, 0, 0, 0x01, 0x20, 0, 0, 0, 0, 0, 0, 0, 0]] := by decide

/-! ### Plans: R209 -/

theorem test_r209_a_decrypt : (planGen ccmCtx .decrypt true 23 8 2).map encode =
    [0x00004041, 0x00000022, 0x00000071, 0x00000052, 0x00000063, 0x00000083, 0x00000C03, 0x00003205, 0x00000009, 0x0000000A,
     0x0000400B] := by decide
theorem test_r209_b : (planGen (gcmCtx .none) .encrypt true 60 20 0).map encode =
    [0x00000001, 0x00000007, 0x00000091, 0x00000052, 0x00001803, 0x00000061, 0x00000042, 0x00002805, 0x000000A3, 0x00000009,
     0x0000002A, 0x0000000B] := by decide
theorem test_r209_c : (planGen (ctxOf .cbc .hmacSha256 .aes .none 32) .encrypt true 16 0 0).map encode =
    [0x00000012, 0x00000021, 0x00000002, 0x00002005, 0x00000008, 0x00000029, 0x00000032, 0x000000C3, 0x00000008, 0x00000009,
     0x0000000B] := by decide
theorem test_r209_d : (planGen cbcCtx .decrypt false 32 5 0).map encode =
    [0x00000012, 0x00000003, 0x00000023, 0x00000008, 0x00000029, 0x00000032, 0x000000C3, 0x00000008, 0x00000009, 0x00004021,
     0x00000002, 0x00000004, 0x0000400B] := by decide
theorem test_r209_e : (planGen (ctxOf .cbc .xcbc .aes .none 16) .encrypt true 0 0 0).map encode =
    [0x00000051, 0x00000052, 0x00000021, 0x00000002, 0x00000008, 0x00000009, 0x0000000B] := by decide
theorem test_r209_f : (planGen (gcmCtx .rfc4543) .encrypt false 20 8 0).map encode =
    [0x00000001, 0x00000007, 0x00000091, 0x00000052, 0x00000003, 0x000000E3, 0x00000006, 0x00001823, 0x000000A3, 0x00000009,
     0x0000002A, 0x0000000B] := by decide
theorem test_r209_f_empty : (planGen (gcmCtx .rfc4543) .encrypt false 0 12 0).map encode =
    [0x00000001, 0x00000007, 0x00000091, 0x00000052, 0x00000003, 0x000018E3, 0x000000A3, 0x00000009, 0x0000002A,
     0x0000000B] := by decide

/-! ### One step of each instruction -/

/-- A cell list holding a string from an offset on. -/
def cellsOf (a : Nat) (l : List Byte) : List Host.Cell := cellsAt a l

/-- A command accepted, with the sequencer to move. -/
def accepted (p : Pend) : State := { State.reset with status := { zeroStatus with busy := true }, phase := .setup, pend := p }

/-- An operation step about to run: the given words at the head of the plan, `PP` at the given one. -/
def atPlan (l : List Instr) (pp : BitVec 5) : State :=
  { State.reset with status := { zeroStatus with busy := true, ctxv := true }, phase := .exec, pend := .enc,
                     plan := planWords l, pp := pp, plen := 13 }

/-- A field of the state the outcome goes on with. -/
def after {α : Type} (o : Out) (f : State → α) : Option α := (nextState o).map f

/-- The configuration, key lengths and `KEYBUF` of R137 (d). -/
def keyed4106 : State :=
  { accepted .setkey with
      cfg := 0x0000106F, keylen := 20,
      mem := { State.reset.mem with key := cellsOf 0 [0xFE, 0xFF, 0xE9, 0x92, 0x86, 0x65, 0x73, 0x1C, 0x6D, 0x6A, 0x8F, 0x94,
                                                      0x67, 0x30, 0x83, 0x08, 0xCA, 0xFE, 0xBA, 0xBE] } }

theorem test_setkey_r137_d : after (exec .setkey keyed4106) (fun t =>
      (t.ctx.nonce.toList, t.ctx.keyBytes.take 2, t.ctx.keyBytes.length, t.mem.key)) =
    some ([0xCA, 0xFE, 0xBA, 0xBE], [0xFE, 0xFF], 16, []) := by decide
theorem test_setkey_r137_c : after (exec .setkey { accepted .setkey with cfg := 0x00001421, keylen := 23, authkeylen := 20 })
      (fun t => (t.errcode, t.status.ctxv)) = some (some .invalidKeyLength, false) := by decide

/-- A session with HMAC-SHA256 over CBC (R209 (c)) and a request of 16 bytes. -/
def encState (p : Pend) : State :=
  { accepted p with status := { zeroStatus with busy := true, ctxv := true }, inlen := 16,
                    ctx := { ctxOf .cbc .hmacSha256 .aes .none 16 with encKeyLen := 16 } }

theorem test_enc_plan : after (exec .enc (encState .enc)) (fun t => (t.plan.toList.take 4, t.plen, t.phase, t.status.sp)) =
    some ([0x00000012, 0x00000021, 0x00000002, 0x00002005], 11, .exec, true) := by decide
theorem test_enc_no_context : after (exec .enc (accepted .enc)) (fun t => (t.errcode, t.status.err)) =
    some (some .illegalCommand, true) := by decide
theorem test_dec_cryptlen : after (exec .dec (encState .dec)) (fun t => (t.cryptlen, t.dir, t.plen)) =
    some (0, .decrypt, 10) := by decide
theorem test_clrkey : after (exec .clrkey { encState .clrkey with mem := keyed4106.mem })
      (fun t => (t.ctx, t.mem.key, t.status.ctxv, t.errcode)) = some (zeroCtx, [], false, none) := by decide

theorem test_keyldCe : after (exec (.keyldCe .ctr .decrypt) { atPlan [] 0 with ctx := { zeroCtx with encKeyLen := 24 } })
      (fun t => (t.ce.mode, t.ce.dir, t.ce.keyLen, t.pp)) = some (.ctr, .decrypt, 24, 1) := by decide
theorem test_keyldMeXcbc_refused : after (exec .keyldMeXcbc (atPlan [] 0)) (·.errcode) = some (some .illegalCommand) := by decide
theorem test_keyldMeXcbc : after
      (exec .keyldMeXcbc { atPlan [] 0 with
        ctx := { zeroCtx with authMode := .xcbc, authMat := .xcbc (toBlock [1]) (toBlock [2]) (toBlock [3]) } })
      (fun t => (t.me.alg, slice t.me.key 15 17, slice t.me.key 31 33)) = some (.xcbc, [0, 2], [0, 3]) := by decide
theorem test_keyldMeCbcmac : after
      (exec .keyldMeCbcmac { atPlan [] 0 with ctx := { zeroCtx with encKeyLen := 16, encKey := toReg 32 [7] } })
      (fun t => (t.me.alg, t.me.key)) = some (.cbcmac, 7 :: zeros 15) := by decide
theorem test_keyldMeGhash : after
      (exec .keyldMeGhash { atPlan [.hdrv] 1 with frame := { zeroFrame with h := toBlock [9] } })
      (fun t => (t.me.alg, t.me.key, t.pp)) = some (.ghash, 9 :: zeros 15, 2) := by decide
theorem test_keyldMeGhash_without_hdrv : after (exec .keyldMeGhash (atPlan [.hdrv] 0)) (·.errcode) =
    some (some .illegalCommand) := by decide
theorem test_stldCeCiv : after (exec .stldCeCiv { atPlan [] 0 with frame := { zeroFrame with civ := toBlock [5, 6] } })
      (fun t => t.ce.iv.toList.take 2) = some [5, 6] := by decide
theorem test_stldCeCtr0p1 : after
      (exec .stldCeCtr0p1 { atPlan [] 0 with frame := { zeroFrame with ctr0 := toBlock (be 16 (5 * 256)) } })
      (fun t => t.ce.iv.toList.drop 14) = some [5, 1] := by decide
theorem test_stldCeJ2 : after (exec .stldCeJ2 { atPlan [] 0 with frame := { zeroFrame with j2 := toBlock [8] } })
      (fun t => t.ce.iv) = some (toBlock [8]) := by decide

/-- A session whose material is two different one-block hash states. -/
def hmacState : State :=
  { atPlan [] 0 with ctx := { ctxOf .cbc .hmacSha256 .aes .none 32 with
                                authMat := .hmac { msg := [0x36], fin := false } { msg := [0x5C], fin := false } } }

theorem test_stldMeIpad : after (exec .stldMeIpad hmacState) (·.me) =
    some { alg := .sha256, key := [], st := { msg := [0x36], fin := false } } := by decide
theorem test_stldMeOpad : after (exec .stldMeOpad hmacState) (·.me) =
    some { alg := .sha256, key := [], st := { msg := [0x5C], fin := false } } := by decide
theorem test_stldMeZero : after
      (exec .stldMeZero { atPlan [] 0 with me := { alg := .cbcmac, key := [1], st := { msg := [2], fin := true } } }) (·.me) =
    some { alg := .cbcmac, key := [1], st := { msg := [], fin := false } } := by decide
theorem test_stldMeZero_refused : after (exec .stldMeZero (atPlan [] 0)) (·.errcode) = some (some .illegalCommand) := by decide

/-- A request of two bytes with data in every buffer. -/
def payload : State :=
  { atPlan [.hext .tags] 1 with
      cryptlen := 2, aadeff := 3,
      mem := { State.reset.mem with aad := cellsOf 0 [0xA1, 0xA2, 0xA3], inp := cellsOf 0 [0x11, 0x12, 0x13, 0x14],
                                    out := cellsOf 0 [0x21, 0x22, 0x23] } }

theorem test_habs_aad : after (exec (.habs .aad 2) { payload with me := { zeroMe with st := { msg := [1], fin := false } } })
      (·.me.st) = some { msg := [1, 0xA1, 0xA2, 0xA3, 0, 0], fin := false } := by decide
theorem test_habs_pout : after (exec (.habs .pout 0) payload) (·.me.st.msg) = some [0x21, 0x22] := by decide
theorem test_capp_mode : after (exec .capp { payload with ce := { zeroCe with mode := .gctr } }) (·.errcode) =
    some (some .illegalCommand) := by decide
theorem test_fuse_engine_error : after
      (exec (.fuse .input 0) { payload with ce := { zeroCe with mode := .ctr }, draws := [true] })
      (fun t => (t.errcode, t.mem.out, t.pp, t.status.busy)) =
    some (some .engineError, cellsOf 0 [0, 0, 0x23], 1, false) := by decide
theorem test_copy : after (exec .copy payload) (fun t => (t.mem.out, t.outw)) =
    some (cellsOf 0 [0x11, 0x12, 0x23], true) := by decide
theorem test_hdrv_mode : after (exec .hdrv { payload with ce := { zeroCe with dir := .decrypt } }) (·.errcode) =
    some (some .illegalCommand) := by decide
theorem test_hfin : after (exec .hfin { payload with me := { zeroMe with st := { msg := [4], fin := false } } }) (·.me.st) =
    some { msg := [4], fin := true } := by decide
theorem test_hfin_twice : after (exec .hfin { payload with me := { zeroMe with st := { msg := [4], fin := true } } })
      (·.errcode) = some (some .illegalCommand) := by decide
theorem test_hext_unfinished : after (exec (.hext .digs) payload) (·.errcode) = some (some .illegalCommand) := by decide
theorem test_hext_ghash_empty : after
      (exec (.hext .tags) { payload with me := { zeroMe with alg := .ghash }, tags := toReg 32 [1] }) (·.tags) =
    some (zeroBytes 32) := by decide
theorem test_ctag_3des : after (exec (.ctag .j1) { payload with ctx := { zeroCtx with family := .tdes } }) (·.errcode) =
    some (some .illegalCommand) := by decide
theorem test_tagout_store : after
      (exec (.tagout .store) { payload with ctx := { zeroCtx with tagLen := 3 }, tags := toReg 32 [0x31, 0x32, 0x33, 0x34] })
      (fun t => (t.mem.out, t.outlen)) = some (cellsOf 0 [0x21, 0x22, 0x31, 0x32, 0x33], 5) := by decide
theorem test_tagout_mismatch : after
      (exec (.tagout .cmp) { payload with dir := .decrypt, ctx := { zeroCtx with tagLen := 2 }, tags := toReg 32 [0x13, 0x15] })
      (fun t => (t.errcode, t.outlen, t.mem.out)) =
    some (some .authenticationFailed, 0, cellsOf 0 [0, 0, 0x23]) := by decide

/-! ### The step, the host port and reset -/

/-- The placed word is the next instruction. -/
theorem test_withFetchWord : (State.reset.withFetchWord 32 0x00002A05).fetch = .run (.fuse .output 5) := by decide
theorem test_step_runs_placed_word : after (step (State.reset.withFetchWord 32 0x00000022)) (fun t => (t.pp, t.ce.iv.toList.drop 15)) =
    some (1, [1]) := by decide
theorem test_status_word : (({ State.reset with status := { zeroStatus with done := true, ctxv := true } } : State).hostOp
    (.readReg 1)).rdata = 0x0000000A := by decide
theorem test_accept_reserved : (State.reset.hostOp (.writeReg 0 0x00000011)).pend = .illegal := by decide
theorem test_keybuf_write_only : ((State.reset.hostOp (.writeByte .keyBuf 0 0x55)).hostOp (.readByte .keyBuf 0)).rdata = 0 := by
  decide

/-! ### States and operands that meet the hypotheses of the statements, clause by clause -/

theorem witness_DecodeEncode : Instr.wellFormed (.habs .iv8 15) = true ∧ Instr.wellFormed (.fuse .input 0) = true := by decide
theorem witness_EncodeDecode : decode .opw 0x00001EE3 = .ok (.habs .iv8 15) ∧ decode .cmdw 0x00000004 = .ok .clrkey := ⟨rfl, rfl⟩

/-- A step whose event is a turn of the sequencer. -/
def withTurn (s : State) : State := { s with agenda := [.sequencer, .reset] }

theorem witness_StepRunsPlanWord : let s := atPlan [.capp, .copy] 1
    (s.agenda = [] ∧ s.status.busy = true ∧ s.phase = .exec) ∧ (withTurn s).agenda = .sequencer :: [.reset]
      ∧ decode .opw (s.planWord s.pp.toNat) = .ok .copy := ⟨by decide, rfl, rfl⟩
theorem witness_StepRunsCommand : let s := accepted .dec
    s.agenda = [] ∧ s.status.busy = true ∧ s.phase = .setup ∧ decode .cmdw 3 = .ok .dec ∧ s.pend = pendOfWord 3 :=
  ⟨rfl, rfl, rfl, rfl, by decide⟩
theorem witness_StepReservedWord_setup : let s := accepted .illegal
    s.agenda = [] ∧ s.status.busy = true ∧ s.phase = .setup ∧ s.pend = .illegal := ⟨rfl, rfl, rfl, rfl⟩
theorem witness_StepReservedWord_exec : let s := atPlan [] 0
    s.agenda = [] ∧ s.status.busy = true ∧ s.phase = .exec ∧ ∀ i, decode .opw (s.planWord s.pp.toNat) ≠ .ok i := by
  refine ⟨rfl, rfl, rfl, ?_⟩
  rintro i ⟨⟩
theorem witness_StepTakesEvents :
    (State.reset.agenda = [] ∧ State.reset.status.busy = false)
      ∧ (withTurn State.reset).agenda = .sequencer :: [.reset]
      ∧ ({ State.reset with agenda := [.host (.readReg 1)] } : State).agenda = .host (.readReg 1) :: []
      ∧ ({ State.reset with agenda := [.reset] } : State).agenda = .reset :: [] := by decide

theorem witness_Acceptance : (accepted .enc).status.busy = true ∧ State.reset.status.busy = false := by decide
theorem witness_HostRegisterWrites : (accepted .enc).status.busy = true ∧ State.reset.status.busy = false := by decide
theorem witness_HostRegisterReads : State.reset.status.busy = false
    ∧ ({ State.reset with errcode := some .illegalCommand } : State).errcode = some .illegalCommand := by decide
theorem witness_HostRegisterReads_busy : (accepted .enc).status.busy = true ∧ (atPlan [] 0).status.busy = true
    ∧ (atPlan [] 0).phase = .exec := by decide

/-- Offsets on both sides of the size of `IVBUF`, and the read-only and the write-only space. -/
theorem witness_HostBytes : State.reset.status.busy = false ∧ 15 < capSize State.reset.caps .ivBuf
    ∧ capSize State.reset.caps .ivBuf ≤ 16 ∧ Space.ivBuf ≠ .outBuf ∧ 0 < capSize State.reset.caps .keyBuf
    ∧ (accepted .enc).status.busy = true ∧ capSize (accepted .enc).caps .ivBuf ≤ 16 := by decide
theorem witness_ReadsHaveNoEffect : (∃ n, HostOp.readReg 10 = .readReg n)
    ∧ (∃ sp off, HostOp.readByte .inBuf 7 = .readByte sp off) ∧ (∃ i, HostOp.readPlan 15 = .readPlan i) :=
  ⟨⟨_, rfl⟩, ⟨_, _, rfl⟩, ⟨_, rfl⟩⟩
theorem witness_SecretsInvisible :
    visible { payload with ctx := { zeroCtx with encKey := toReg 32 [1] }, tags := toReg 32 [2], cryptlen := 9 }
      = visible payload := by decide
/-- Two idle sessions with different modes, and two busy states in different phases. -/
theorem witness_SecretsInvisible_concealed :
    concealed { State.reset with ctx := ctxOf .cbc .hmacSha256 .aes .none 32 } = concealed State.reset
      ∧ concealed { payload with phase := .setup, pend := .dec, ctx := gcmCtx .rfc4106 } = concealed payload := by decide

/-! Session commands. -/

/-- The RFC 3686 lengths of R137 (c): authentication key 20, encryption key 16, nonce 4. -/
def keyed3686 : State := { accepted .setkey with cfg := 0x00001421, keylen := 40, authkeylen := 20 }
/-- The configuration's fields. -/
def cfg3686 : CfgFields := { cipherMode := .ctr, authMode := .hmacSha1, family := .aes, wrap := .rfc3686, tagLen := 20 }

theorem witness_SetkeyCreates : let s := keyed3686; let c := cfg3686
    s.status.ctxv = false ∧ CfgGives s.cfg c ∧ NoFailure s ∧ KeyLensOk s.caps.keyCap c s.keylen.toNat s.authkeylen.toNat :=
  ⟨rfl, (legalCfg_eq_some_iff _ _).mp (by decide), (fun _ h => nomatch h), (keyLensOk_iff _ _ _ _).mpr (by decide)⟩

/-- An HMAC key of 64 bytes, which is not hashed, and one of 65, which is (R127); a key blob that fills `KEYBUF`. -/
theorem witness_SetkeyCreates_hmac (a : Nat) (ha : a = 64 ∨ a = 65 ∨ a = 240) :
    let c : CfgFields := { cipherMode := .cbc, authMode := .hmacSha256, family := .aes, wrap := .none, tagLen := 32 }
    CfgGives 0x00002004 c ∧ KeyLensOk 256 c (a + 16) a := by
  refine ⟨(legalCfg_eq_some_iff _ _).mp (by decide), (keyLensOk_iff _ _ _ _).mpr ?_⟩
  rcases ha with rfl | rfl | rfl <;> decide
/-- XCBC (R130). -/
theorem witness_SetkeyCreates_xcbc :
    let c : CfgFields := { cipherMode := .cbc, authMode := .xcbc, family := .tdes, wrap := .none, tagLen := 16 }
    CfgGives 0x00001018 c ∧ KeyLensOk 256 c 56 32 :=
  ⟨(legalCfg_eq_some_iff _ _).mp (by decide), (keyLensOk_iff _ _ _ _).mpr (by decide)⟩
/-- A mode without a separate authentication key (R131). -/
theorem witness_SetkeyCreates_none :
    let c : CfgFields := { cipherMode := .gctr, authMode := .none, family := .aes, wrap := .rfc4106, tagLen := 16 }
    CfgGives 0x0000106F c ∧ KeyLensOk 256 c 20 0 :=
  ⟨(legalCfg_eq_some_iff _ _).mp (by decide), (keyLensOk_iff _ _ _ _).mpr (by decide)⟩
theorem witness_SetkeyRefused_context : ({ keyed3686 with status := { zeroStatus with ctxv := true } } : State).status.ctxv = true :=
  rfl
/-- A tag length of 0, one above the digest, a reserved bit, a reserved wrapper: no fields are given. -/
theorem witness_SetkeyRefused_config : (accepted .setkey).status.ctxv = false
    ∧ ∀ w, w = (accepted .setkey).cfg ∨ w = 0x00001521 ∨ w = 0x00005421 ∨ w = 0x000014A1 → ∀ c, ¬ CfgGives w c := by
  refine ⟨rfl, fun w hw => (legalCfg_eq_none_iff w).mp ?_⟩
  rcases hw with rfl | rfl | rfl | rfl <;> decide
/-- One byte too many for `KEYBUF`, a part shorter than the nonce, an odd encryption key. -/
theorem witness_SetkeyRefused_lengths (k : Word) (hk : k = 257 ∨ k = 23 ∨ k = 36) :
    let s : State := { keyed3686 with keylen := k }
    s.status.ctxv = false ∧ CfgGives s.cfg cfg3686
      ∧ ¬ KeyLensOk s.caps.keyCap cfg3686 s.keylen.toNat s.authkeylen.toNat := by
  refine ⟨rfl, (legalCfg_eq_some_iff 0x00001421 _).mp (by decide), fun h => absurd ((keyLensOk_iff _ _ _ _).mp h) ?_⟩
  rcases hk with rfl | rfl | rfl <;> decide
/-- An authentication key where the mode has none. -/
theorem witness_SetkeyRefused_authKey :
    let c : CfgFields := { cipherMode := .gctr, authMode := .none, family := .aes, wrap := .rfc4106, tagLen := 16 }
    CfgGives 0x0000106F c ∧ ¬ KeyLensOk 256 c 24 4 :=
  ⟨(legalCfg_eq_some_iff _ _).mp (by decide), fun h => absurd ((keyLensOk_iff _ _ _ _).mp h) (by decide)⟩

/-- The second of two draws, the last one, fails. -/
theorem witness_SetkeyDerivationFails : let s : State := { keyed3686 with draws := [false, true] }; let c := cfg3686
    s.status.ctxv = false ∧ CfgGives s.cfg c ∧ KeyLensOk s.caps.keyCap c s.keylen.toNat s.authkeylen.toNat
      ∧ c.authMode = .hmacSha1 ∧ s.authkeylen.toNat ≤ 64 ∧ s.draws[1]? = some true :=
  ⟨rfl, (legalCfg_eq_some_iff _ _).mp (by decide), (keyLensOk_iff _ _ _ _).mpr (by decide), rfl, by decide, rfl⟩
theorem witness_KeyBufZeroized : (∃ t, exec .setkey (accepted .setkey) = .next t) ∧ ∃ t, exec .clrkey keyed4106 = .next t :=
  ⟨⟨_, rfl⟩, ⟨_, rfl⟩⟩

/-! Requests. -/

theorem witness_RequestSetup : let s := encState .enc
    s.status.ctxv = true
      ∧ modeSelect s.caps s.ctx .encrypt s.inlen.toNat s.aadlen.toNat = .ok { cryptlen := 16, aadeff := 0, sp := true }
      ∧ ∃ f, frameBuild s.ctx (s.readRange .ivBuf 0 16) 16 0 = .ok f := ⟨rfl, rfl, _, rfl⟩
theorem witness_RequestRefused_context : (accepted .enc).phase = .setup ∧ (accepted .enc).status.ctxv = false := by decide
theorem witness_RequestRefused_mode : let s : State := { encState .dec with inlen := 15 }
    s.phase = .setup ∧ s.status.ctxv = true
      ∧ modeSelect s.caps s.ctx .decrypt s.inlen.toNat s.aadlen.toNat = .error .invalidLength := ⟨rfl, rfl, rfl⟩

/-- A CCM session whose first IV byte is 0 (R169 (d)). -/
def badIv : State :=
  { encState .enc with ctx := ccmCtx, mem := { State.reset.mem with iv := cellsOf 0 (zeros 16) } }

theorem witness_RequestRefused_frame : badIv.phase = .setup ∧ badIv.status.ctxv = true
    ∧ modeSelect badIv.caps badIv.ctx .encrypt badIv.inlen.toNat badIv.aadlen.toNat
        = .ok { cryptlen := 16, aadeff := 0, sp := true }
    ∧ frameBuild badIv.ctx (badIv.readRange .ivBuf 0 16) 16 0 = .error .invalidIvFormat := ⟨rfl, rfl, rfl, rfl⟩

/-- The clauses of `Obligations.ModeSelect` at their boundaries: one byte short of a tag, one byte over a capacity, a ragged
payload, associated data of 17 bytes under a wrapper, and a request that passes with the buffer full. -/
theorem witness_ModeSelect :
    11 < cbcCtx.tagLen.toNat ∧ Config.defaultCaps.bufCap < 65557 + cbcCtx.tagLen.toNat
      ∧ (cbcCtx.cipherMode = .cbc ∧ ¬ 16 ∣ 17) ∧ ((gcmCtx .rfc4106).wrap = .rfc4106 ∧ 17 ≠ 16 ∧ 17 ≠ 20)
      ∧ ¬ Config.defaultCaps.bufCap < 65560 + ccmCtx.tagLen.toNat := by decide
theorem witness_SinglePassVerdict :
    [ccmCtx, gcmCtx .rfc4106, gcmCtx .rfc4543, cbcCtx, ctrCtx].all
      (fun c => legalCombo c.cipherMode c.authMode c.family c.wrap) = true := by decide

theorem witness_CcmFrame : ccmCtx.cipherMode = .ccm ∧ legalTagLen .ccm ccmCtx.authMode ccmCtx.tagLen.toNat = true
    ∧ iv3610.length = 16 ∧ 23 < 2 ^ 32 ∧ 8 < 2 ^ 32 ∧ ∃ f, frameBuild ccmCtx iv3610 23 8 = .ok f :=
  ⟨rfl, by decide, by decide, by decide, by decide, _, rfl⟩

/-- First IV bytes 0 and 8 are refused; 1 with 65536 bytes of payload overflows, with 65535 it does not; 7 passes. -/
theorem witness_CcmFrameErrors : ccmCtx.cipherMode = .ccm ∧ iv3610.head? = some 1
    ∧ ((0 : Byte).toNat < 1 ∧ 7 < (8 : Byte).toNat) ∧ (1 + 1 < 4 ∧ 2 ^ (8 * (1 + 1)) ≤ 65536)
    ∧ ¬ (1 + 1 < 4 ∧ 2 ^ (8 * (1 + 1)) ≤ 65535) ∧ ¬ 7 + 1 < 4 := by decide

/-- `AADEFF` 0, 1, 0xFEFF and 0xFF00: the ends of the three clauses of R163. -/
theorem witness_CcmLengthHeader : (∃ f, frameBuild ccmCtx iv3610 0 0 = .ok f) ∧ (∃ f, frameBuild ccmCtx iv3610 0 1 = .ok f)
    ∧ (∃ f, frameBuild ccmCtx iv3610 0 0xFEFF = .ok f) ∧ ∃ f, frameBuild ccmCtx iv3610 0 0xFF00 = .ok f :=
  ⟨⟨_, rfl⟩, ⟨_, rfl⟩, ⟨_, rfl⟩, ⟨_, rfl⟩⟩
theorem witness_GcmFrame : (gcmCtx .none).cipherMode = .gctr ∧ iv179.length = 16 ∧ (gcmCtx .rfc4106).wrap = .rfc4106
    ∧ (gcmCtx .rfc4543).wrap = .rfc4543 := by decide
theorem witness_CivFrame : iv179.length = 16 ∧ (cbcCtx.cipherMode = .cbc ∧ cbcCtx.family = .aes) ∧ cbc3Ctx.family = .tdes
    ∧ (ctrCtx.cipherMode = .ctr ∧ ctrCtx.wrap = .rfc3686) ∧ (ctxOf .ctr .xcbc .aes .none 16).wrap ≠ .rfc3686 := by decide

/-! Plans. -/

/-- Legal configurations that reach each bound of R207: 7 words and 13 words among them. -/
theorem witness_PlanLengths :
    (planGen (ctxOf .cbc .xcbc .aes .none 16) .encrypt true 0 0 0).length = 7
      ∧ (planGen (ctxOf .cbc .xcbc .aes .none 16) .encrypt false 16 5 0).length = 10
      ∧ (planGen cbcCtx .decrypt false 32 5 0).length = 13 ∧ (planGen cbcCtx .encrypt true 16 4 0).length = 12
      ∧ (planGen ccmCtx .encrypt true 0 0 0).length = 8 ∧ (planGen (gcmCtx .rfc4543) .encrypt false 0 8 0).length = 10 := by
  decide
theorem witness_PlanTagSteps : ((cbcCtx.cipherMode = .cbc ∨ cbcCtx.cipherMode = .ctr)
    ∧ (cbcCtx.authMode = .hmacSha1 ∨ cbcCtx.authMode = .hmacSha256)) ∧ ¬ (ccmCtx.cipherMode = .cbc ∨ ccmCtx.cipherMode = .ctr) := by
  decide
theorem witness_PlanOperations : Instr.fuse .input 9 ∈ planGen ccmCtx .encrypt true 23 8 2
    ∧ Instr.fuse .input 4 ∈ planGen (gcmCtx .none) .decrypt true 60 0 0
    ∧ Instr.capp ∈ planGen cbcCtx .encrypt false 16 5 0 ∧ Instr.hfin ∈ planGen cbcCtx .encrypt true 0 0 0 := by decide
theorem witness_PlanWordsDecode : (planGen ccmCtx .encrypt true 23 8 2)[10]? = some (.tagout .store)
    ∧ (planGen ccmCtx .encrypt true 23 8 2).length ≤ 15 := by decide

/-! Operation steps. -/

theorem witness_StepAdvances : (atPlan [] 0).pp + 1 ≠ (atPlan [] 0).plen ∧ (atPlan [] 12).pp + 1 = (atPlan [] 12).plen := by decide

/-- A session with XCBC material. -/
def xcbcState : State :=
  { atPlan [] 0 with
    ctx := { ctxOf .cbc .xcbc .aes .none 16 with authMat := .xcbc (toBlock [1]) (toBlock [2]) (toBlock [3]) } }

theorem witness_LoadMacKey : (atPlan [.hdrv] 1).hasRun .hdrv = true ∧ xcbcState.ctx.authMode = .xcbc
    ∧ xcbcState.ctx.authMat = .xcbc (toBlock [1]) (toBlock [2]) (toBlock [3]) := by decide
theorem witness_LoadMacState : hmacState.ctx.authMat = .hmac { msg := [0x36], fin := false } { msg := [0x5C], fin := false }
    ∧ (hmacState.ctx.authMode = .hmacSha256 ∧ MacAlg.sha256 = .sha256)
    ∧ ({ zeroMe with alg := .ghash } : MacEngine).alg = .ghash := by decide

/-- The payload request with the engines loaded: AES in CTR mode, CBC-MAC, and one byte absorbed. -/
def loaded : State :=
  { payload with ce := { zeroCe with mode := .ctr, keyLen := 16 }, me := { zeroMe with alg := .cbcmac } }

theorem witness_HabsResult : loaded.me.st.fin = false ∧ loaded.readRange .aadBuf 0 loaded.aadeff.toNat ≠ []
    ∧ loaded.draw = false := by decide
theorem witness_HabsResult_padding_only : let s : State := { loaded with aadeff := 0 }
    s.me.st.fin = false ∧ s.readRange .aadBuf 0 s.aadeff.toNat ++ List.replicate 1 0 ≠ [] ∧ s.draw = false := by decide
theorem witness_CappResult : 0 < loaded.cryptlen.toNat ∧ loaded.cryptlen.toNat ≤ loaded.caps.bufCap ∧ loaded.ce.mode = .ctr
    ∧ loaded.draw = false := by decide
theorem witness_FuseResult : 0 < loaded.cryptlen.toNat ∧ loaded.cryptlen.toNat ≤ loaded.caps.bufCap ∧ loaded.ce.mode = .ctr
    ∧ loaded.me.st.fin = false ∧ loaded.draw = false := by decide

/-- A payload that fills the buffer. -/
theorem witness_CopyResult : let s : State := { loaded with cryptlen := 65568 }
    0 < s.cryptlen.toNat ∧ s.cryptlen.toNat ≤ s.caps.bufCap := by decide
theorem witness_DeriveAndFinalize : payload.draw = false ∧ payload.ce.mode = .ecb ∧ payload.ce.dir = .encrypt
    ∧ payload.ce.fam = .aes ∧ payload.me.alg = .sha1 ∧ payload.me.st.fin = false := by decide
theorem witness_HextResult_hash : let m : MacEngine := { zeroMe with st := { msg := [1], fin := true } }
    m.alg = .sha1 ∧ m.st.fin = true := by decide
theorem witness_HextResult_block : let m : MacEngine := { zeroMe with alg := .ghash, st := { msg := zeros 16, fin := false } }
    m.alg = .ghash ∧ m.st.fin = false ∧ 16 ∣ m.st.msg.length := by decide
theorem witness_CtagResult : payload.hasRun (.hext .tags) = true ∧ payload.ctx.family = .aes ∧ payload.draw = false := by decide

/-- A 32-byte tag that ends exactly at the end of `OUTBUF`. -/
theorem witness_TagStored : let s : State := { payload with cryptlen := 65536, ctx := { zeroCtx with tagLen := 32 } }
    s.dir = .encrypt ∧ s.hasRun (.hext .tags) = true ∧ s.ctx.tagLen.toNat ≤ 32
      ∧ s.cryptlen.toNat + s.ctx.tagLen.toNat ≤ s.caps.bufCap := by decide

/-- A decrypt request of two payload bytes and a two-byte tag. -/
def compared (tag : List Byte) : State :=
  { payload with dir := .decrypt, ctx := { zeroCtx with tagLen := 2 }, tags := toReg 32 tag }

theorem witness_TagCompared_match : let s := compared [0x13, 0x14, 0xFF]
    s.dir = .decrypt ∧ s.hasRun (.hext .tags) = true ∧ s.ctx.tagLen.toNat ≤ 32
      ∧ s.tags.toList.take s.ctx.tagLen.toNat = s.readRange .inBuf s.cryptlen.toNat s.ctx.tagLen.toNat := by decide
theorem witness_TagCompared_mismatch : let s := compared [0x13, 0x15]
    s.dir = .decrypt ∧ s.hasRun (.hext .tags) = true ∧ s.ctx.tagLen.toNat ≤ 32
      ∧ s.tags.toList.take s.ctx.tagLen.toNat ≠ s.readRange .inBuf s.cryptlen.toNat s.ctx.tagLen.toNat := by decide

/-- After reset's values most preconditions fail at once. -/
theorem witness_FailedPreconditions_blank : let s := atPlan [] 0
    s.ctx.authMode ≠ .xcbc ∧ s.hasRun .hdrv = false ∧ s.ctx.authMat = .none ∧ s.me.alg = .sha1 ∧ s.range .aad = []
      ∧ s.cryptlen = 0 ∧ s.ce.mode = .ecb ∧ s.hasRun (.hext .tags) = false ∧ s.me.st.fin = false ∧ s.dir = .encrypt := by decide
/-- A finalized MAC state with a payload and a cipher mode that `FUSE` accepts, so that R218's last precondition alone fails. -/
theorem witness_FailedPreconditions_fuse :
    let s : State := { loaded with me := { loaded.me with st := { msg := [], fin := true } } }
    s.me.st.fin = true ∧ 0 < s.cryptlen.toNat ∧ s.ce.mode = .ctr
      ∧ after (exec (.fuse .input 0) s) (·.errcode) = some (some .illegalCommand) := by decide
theorem witness_FailedPreconditions_engines :
    let m : MacEngine := { zeroMe with alg := .ghash, st := { msg := zeros 15, fin := false } }
    let n : MacEngine := { zeroMe with st := { msg := [], fin := true } }
    (¬ 16 ∣ m.st.msg.length ∧ m.alg = .ghash) ∧ n.st.fin = true
      ∧ ({ m with st := n.st } : MacEngine).alg = .ghash ∧ (atPlan [] 0).a0len = 0 ∧ (atPlan [] 0).diglen = 0
      ∧ (atPlan [] 0).aadeff = 0 ∧ ({ zeroCe with mode := .gctr } : CipherEngine).mode = .gctr
      ∧ ({ zeroCe with mode := .ctr } : CipherEngine).mode ≠ .ecb ∧ cbc3Ctx.family = .tdes
      ∧ (compared []).dir = .decrypt := by decide

/-- The six primitive calls, each with a true draw. -/
theorem witness_EngineErrors : let s : State := { loaded with draws := [true] }
    s.phase = .exec ∧ s.draw = true ∧ s.me.st.fin = false ∧ s.range .aad ++ zeros 0 ≠ [] ∧ 0 < s.cryptlen.toNat
      ∧ s.ce.mode = .ctr ∧ s.ce.mode ≠ .ecb ∧ s.hasRun (.hext .tags) = true ∧ s.ctx.family = .aes := by decide
theorem witness_EngineErrors_derive : let t : State := { payload with draws := [true] }
    t.phase = .exec ∧ t.draw = true ∧ t.ce.mode = .ecb ∧ t.ce.dir = .encrypt ∧ t.ce.fam = .aes ∧ t.me.alg = .sha1
      ∧ t.me.st.fin = false := by decide
theorem witness_PlanOperationFrame : Instr.format (.tagout .store) = .opw ∧ ∃ t, exec (.tagout .store) payload = .next t :=
  ⟨rfl, _, rfl⟩
theorem witness_FuseIsItsHalves : let s := loaded
    NoFailure s ∧ 0 < s.cryptlen.toNat ∧ s.cryptlen.toNat ≤ s.caps.bufCap ∧ s.ce.mode = .ctr ∧ s.me.st.fin = false
      ∧ s.pp.toNat + 2 < s.plen.toNat := ⟨(fun _ h => nomatch h), by decide⟩
theorem witness_CipherInverts : (match Family.tdes with | .aes => 16 | .tdes => 8) ∣ (zeros 24).length
    ∧ (CeMode.ctr = .ctr ∧ Family.aes = .aes) := by decide

/-! The whole machine. -/

theorem witness_ResetState : State.reset = State.reset ∧ ∃ u : State, payload.platformReset = u.platformReset := ⟨rfl, _, rfl⟩
theorem witness_MemoryStaysCanonical : payload.memWf = true ∧ ∃ t, step { payload with plan := planWords [.copy, .copy] } = .next t :=
  ⟨by decide, _, rfl⟩

/-- A legal session: CBC with AES and XCBC. -/
def session : State := { xcbcState with ctx := { xcbcState.ctx with encKeyLen := 16 } }

theorem witness_session_legal : CtxLegal session.ctx := ⟨by decide, by decide, by decide, by decide, rfl⟩
theorem witness_ContextInvariant : CtxOk session ∧ ∃ t, step session = .next t := by
  refine ⟨⟨fun h => ?_, fun _ => witness_session_legal⟩, ⟨_, rfl⟩⟩
  exact absurd h (by decide)
theorem witness_ContextImmutable : (∃ t, step keyed3686 = .next t) ∧ ∃ t, step (accepted .clrkey) = .next t :=
  ⟨⟨_, rfl⟩, ⟨_, rfl⟩⟩
theorem witness_SequencingInvariant : SeqOk session ∧ SeqOk (accepted .enc) ∧ SeqOk State.reset :=
  ⟨⟨rfl, .inl rfl, by decide, by decide⟩,
   ⟨rfl, by decide, rfl, rfl, rfl, rfl, rfl, rfl, rfl, rfl, rfl, rfl, rfl⟩,
   ⟨rfl, rfl, rfl, rfl, rfl, rfl, rfl, rfl, rfl, rfl, rfl, rfl, rfl⟩⟩
theorem witness_CommandsTerminate : Accepted (accepted .enc) .enc ∧ Accepted (accepted .illegal) .illegal :=
  ⟨⟨rfl, rfl, rfl, rfl⟩, ⟨rfl, rfl, rfl, rfl⟩⟩

/-- An accepted request of a legal session. -/
def request (p : Pend) (inlen aadlen : Word) : State :=
  { accepted p with status := { zeroStatus with busy := true, ctxv := true }, ctx := session.ctx, inlen := inlen,
                    aadlen := aadlen }

theorem witness_EncryptEndToEnd : let s := request .enc 32 5
    Accepted s .enc ∧ s.status.ctxv = true ∧ CtxLegal s.ctx ∧ s.caps.Legal ∧ NoFailure s
      ∧ modeSelect s.caps s.ctx .encrypt s.inlen.toNat s.aadlen.toNat = .ok { cryptlen := 32, aadeff := 5, sp := false }
      ∧ ∃ f, frameBuild s.ctx (s.readRange .ivBuf 0 16) 32 5 = .ok f :=
  ⟨⟨rfl, rfl, rfl, rfl⟩, rfl, witness_session_legal, by decide, (fun _ h => nomatch h), rfl, _, rfl⟩

/-- The shortest decrypt request: a tag and nothing else. -/
theorem witness_DecryptEndToEnd : let s := request .dec 16 0
    Accepted s .dec ∧ s.status.ctxv = true ∧ CtxLegal s.ctx ∧ s.caps.Legal ∧ NoFailure s
      ∧ modeSelect s.caps s.ctx .decrypt s.inlen.toNat s.aadlen.toNat = .ok { cryptlen := 0, aadeff := 0, sp := true }
      ∧ ∃ f, frameBuild s.ctx (s.readRange .ivBuf 0 16) 0 0 = .ok f :=
  ⟨⟨rfl, rfl, rfl, rfl⟩, rfl, witness_session_legal, by decide, (fun _ h => nomatch h), rfl, _, rfl⟩

end Sys2Proof.Tests
end

/-! Which event a step takes (`spec/00_scope.md` R11; log 3, log 18): one equation of `step` per head of the agenda, and the
sequencer's turn while idle. -/

namespace Sys2Proof.Machine

open Sys2Proof

/-! `step` by the head of the agenda. -/

theorem step_of_agenda_nil {s : State} (h : s.agenda = []) : step s = sequencerTurn s := by
  simp only [step, h]

theorem step_of_agenda_sequencer {s : State} {rest : List Event} (h : s.agenda = .sequencer :: rest) :
    step s = sequencerTurn { s with agenda := rest } := by
  simp only [step, h]

theorem step_of_agenda_host {s : State} {rest : List Event} {op : HostOp} (h : s.agenda = .host op :: rest) :
    step s = .next (State.hostOp { s with agenda := rest } op) := by
  simp only [step, h]

theorem step_of_agenda_reset {s : State} {rest : List Event} (h : s.agenda = .reset :: rest) :
    step s = .next (State.platformReset { s with agenda := rest }) := by
  simp only [step, h]

/-! While `BUSY = 0` the sequencer takes no step (R11). -/

theorem fetch_of_not_busy {s : State} (h : s.status.busy = false) : s.fetch = .asleep := by
  simp [State.fetch, h]

theorem sequencerTurn_of_not_busy {s : State} (h : s.status.busy = false) : sequencerTurn s = .next s := by
  simp only [sequencerTurn, fetch_of_not_busy h]

/-- Settles O8: the equation of `step` for each head of the agenda; the sequencer's two cases are its idle turn. -/
theorem stepTakesEvents : Obligations.StepTakesEvents := by
  intro s rest
  refine ⟨fun hnil hidle => ?_, fun hturn hidle => ?_, fun _ hhost => step_of_agenda_host hhost, step_of_agenda_reset⟩
  · rw [step_of_agenda_nil hnil, sequencerTurn_of_not_busy hidle]
  · rw [step_of_agenda_sequencer hturn]
    exact sequencerTurn_of_not_busy (s := { s with agenda := rest }) hidle

end Sys2Proof.Machine

/-! The state after a reset (`spec/10_state.md` R42, `spec/70_reset_and_hazards.md` R310): one form for the machine right after
reset and for a `Reset` in any state, and the invariants there. -/

namespace Sys2Proof.Machine

open Sys2Proof Sys2Proof.Safety

/-- The reset state with the model's inputs and parameters of `u` and the number `n` of resets so far (log 19). -/
def State.resetKeeping (u : State) (n : Nat) : State :=
  { State.reset with caps := u.caps, agenda := u.agenda, draws := u.draws, rdata := u.rdata, freeIx := u.freeIx, resets := n }

theorem reset_eq_resetKeeping : State.reset = State.reset.resetKeeping 0 := rfl

theorem platformReset_eq_resetKeeping (u : State) : u.platformReset = u.resetKeeping (u.resets + 1) := rfl

theorem resetKeeping_of_reset {s : State} (h : s = State.reset ∨ ∃ u : State, s = u.platformReset) :
    ∃ (u : State) (n : Nat), s = u.resetKeeping n := by
  obtain rfl | ⟨u, rfl⟩ := h
  · exact ⟨State.reset, 0, reset_eq_resetKeeping⟩
  · exact ⟨u, u.resets + 1, platformReset_eq_resetKeeping u⟩

theorem scrubbed_resetKeeping (u : State) (n : Nat) : Scrubbed (u.resetKeeping n) :=
  ⟨rfl, rfl, rfl, rfl, rfl, rfl, rfl, rfl, rfl, rfl, rfl⟩

theorem seqOk_resetKeeping (u : State) (n : Nat) : SeqOk (u.resetKeeping n) := ⟨rfl, rfl, scrubbed_resetKeeping u n⟩

/-- The all-zero plan reads 0 at every index, also beyond its sixteen words (R52). -/
theorem planWord_of_zeroPlan {s : State} (h : s.plan = zeroPlan) (i : Nat) : s.planWord i = 0 := by
  have hzero : zeroPlan.toList = List.replicate 16 (0 : Word) := rfl
  rw [State.planWord, h, hzero, List.getD_eq_getElem?_getD, List.getElem?_replicate]
  split <;> rfl

/-- A reset leaves the key buffer zeroized (R42), so its bytes are those `CLRKEY` and `SETKEY` leave (R136). -/
theorem readByte_resetKeeping_key (u : State) (n off : Nat) : (u.resetKeeping n).readByte .keyBuf off = 0 :=
  readByte_zeroKeyBuf_key (u.resetKeeping n) off

/-- Settles O52: both kinds of reset state have the form `resetKeeping`, whose registers are zero by definition. -/
theorem resetState : Obligations.ResetState := by
  intro s hs
  obtain ⟨u, n, rfl⟩ := resetKeeping_of_reset hs
  exact ⟨rfl, rfl, rfl, rfl, rfl, rfl, rfl, rfl, rfl, rfl, rfl, rfl, rfl, scrubbed_resetKeeping u n,
    planWord_of_zeroPlan rfl, readByte_resetKeeping_key u n⟩

theorem memWf_reset : State.reset.memWf = true := by
  rw [memWf_iff]
  intro sp
  cases sp <;> rfl

theorem ctxOk_reset : CtxOk State.reset :=
  ⟨fun _ => rfl, fun hctxv => absurd hctxv Bool.false_ne_true⟩

/-- Settles O53: the base cases of the three invariants. -/
theorem invariantsAtReset : Obligations.InvariantsAtReset :=
  ⟨memWf_reset, ctxOk_reset, seqOk_resetKeeping State.reset 0⟩

end Sys2Proof.Machine

/-! A plan word decodes only to a plan operation (`spec/30_encoding.md` R70, R80 to R83): the decoder of the plan format never
answers a host command. -/

namespace Sys2Proof

/-- A decoder's answer that is a rejection or a plan operation. -/
def OnlyPlanOps (r : Except Reject Instr) : Prop := ∀ i, r = .ok i → i.format = .opw

theorem OnlyPlanOps.of_error (e : Reject) : OnlyPlanOps (.error e) := fun _ h => nomatch h

theorem OnlyPlanOps.of_ok {i : Instr} (hi : i.format = .opw) : OnlyPlanOps (.ok i) := by
  rintro _ ⟨⟩
  exact hi

theorem OnlyPlanOps.ite {c : Prop} [Decidable c] {r r' : Except Reject Instr} (h : OnlyPlanOps r) (h' : OnlyPlanOps r') :
    OnlyPlanOps (if c then r else r') := by
  split
  · exact h
  · exact h'

theorem OnlyPlanOps.zeroed (ok : Bool) {r : Except Reject Instr} (h : OnlyPlanOps r) : OnlyPlanOps (zeroed ok r) :=
  .ite h (.of_error _)

theorem OnlyPlanOps.selected {α : Type} (o : Option α) {k : α → Instr} (h : ∀ x, (k x).format = .opw) :
    OnlyPlanOps (selected o k) := by
  cases o with
  | none => exact .of_error _
  | some x => exact .of_ok (h x)

theorem decodePlain_onlyPlanOps (f : Fields) {i : Instr} (hi : i.format = .opw) : OnlyPlanOps (decodePlain f i) :=
  .zeroed _ (.ite (.of_ok hi) (.of_error _))

theorem decodeKeyld_onlyPlanOps (f : Fields) : OnlyPlanOps (decodeKeyld f) := by
  refine .ite (.zeroed _ (.selected _ fun _ => rfl)) (.zeroed _ ?_)
  split
  · exact .of_ok rfl
  · exact .of_ok rfl
  · exact .of_ok rfl
  · exact .of_error _

theorem decodeStld_onlyPlanOps (f : Fields) : OnlyPlanOps (decodeStld f) := by
  refine .zeroed _ (.ite ?_ ?_)
  all_goals
    split
    · exact .of_ok rfl
    · exact .of_ok rfl
    · exact .of_ok rfl
    · exact .of_error _

/-- One case per opcode of R81, and the reserved ones. -/
theorem decodeFields_onlyPlanOps (f : Fields) : OnlyPlanOps (decodeFields f) := by
  refine .zeroed _ ?_
  split
  · exact decodeKeyld_onlyPlanOps f
  · exact decodeStld_onlyPlanOps f
  · exact .zeroed _ (.selected _ fun _ => rfl)
  · exact decodePlain_onlyPlanOps f rfl
  · exact .zeroed _ (.ite (.of_ok rfl) (.of_error _))
  · exact decodePlain_onlyPlanOps f rfl
  · exact decodePlain_onlyPlanOps f rfl
  · exact decodePlain_onlyPlanOps f rfl
  · exact .zeroed _ (.selected _ fun _ => rfl)
  · exact .zeroed _ (.selected _ fun _ => rfl)
  · exact .zeroed _ (.ite (.of_ok rfl) (.of_error _))
  · exact .of_error _

theorem format_of_decodePlan {w : Word} {i : Instr} (h : decodePlan w = .ok i) : i.format = .opw :=
  decodeFields_onlyPlanOps (fieldsOf w) i h

end Sys2Proof

/-! The length of a plan (`spec/44_plan_generation.md` R207): at least one operation and at most 13, for every context and every
verdict, so that `PLEN` holds it exactly. -/

namespace Sys2Proof.Machine

open Sys2Proof

theorem emitIf_length_le (b : Bool) (l : List Instr) : (emitIf b l).length ≤ l.length := by
  cases b <;> simp [emitIf]

@[simp] theorem cipherLoad_length (c : Ctx) (d : Dir) : (cipherLoad c d).length = 2 := rfl

/-- HMAC loads in one operation and finishes in six, the other MACs in two and two (R187). -/
theorem macLoad_macFinish_length_le (c : Ctx) : (macLoad c).length + (macFinish c).length ≤ 7 := by
  unfold macLoad macFinish
  cases isHmac c.authMode <;> simp

theorem planSingle_length (c : Ctx) (d : Dir) (cryptlen aadeff : Nat) :
    1 ≤ (planSingle c d cryptlen aadeff).length ∧ (planSingle c d cryptlen aadeff).length ≤ 13 := by
  have hmac := macLoad_macFinish_length_le c
  have haad := emitIf_length_le (decide (0 < aadeff)) [.habs .aad 0]
  have hpay := emitIf_length_le (decide (0 < cryptlen)) [.fuse (cipherSide d) 0]
  simp only [planSingle, List.length_append, List.length_cons, List.length_nil, cipherLoad_length] at *
  omega

theorem planDoubleEnc_length (c : Ctx) (cryptlen aadeff : Nat) :
    1 ≤ (planDoubleEnc c cryptlen aadeff).length ∧ (planDoubleEnc c cryptlen aadeff).length ≤ 13 := by
  have hmac := macLoad_macFinish_length_le c
  have haad := emitIf_length_le (decide (0 < aadeff)) [.habs .aad 0]
  have hcipher := emitIf_length_le (decide (0 < cryptlen)) [.capp]
  have habs := emitIf_length_le (decide (0 < cryptlen)) [.habs .pout 0]
  simp only [planDoubleEnc, List.length_append, List.length_cons, List.length_nil, cipherLoad_length] at *
  omega

theorem planDoubleDec_length (c : Ctx) (cryptlen aadeff : Nat) :
    1 ≤ (planDoubleDec c cryptlen aadeff).length ∧ (planDoubleDec c cryptlen aadeff).length ≤ 13 := by
  have hmac := macLoad_macFinish_length_le c
  have haad := emitIf_length_le (decide (0 < aadeff)) [.habs .aad 0]
  have hcipher := emitIf_length_le (decide (0 < cryptlen)) [.capp]
  have habs := emitIf_length_le (decide (0 < cryptlen)) [.habs .pin 0]
  simp only [planDoubleDec, List.length_append, List.length_cons, List.length_nil, cipherLoad_length] at *
  omega

theorem planCcm_length (d : Dir) (cryptlen aadeff a0len : Nat) :
    1 ≤ (planCcm d cryptlen aadeff a0len).length ∧ (planCcm d cryptlen aadeff a0len).length ≤ 13 := by
  have haad := emitIf_length_le (decide (0 < aadeff)) [.habs .a0 0, .habs .aad (pad16 (a0len + aadeff))]
  have hpay := emitIf_length_le (decide (0 < cryptlen)) [.fuse (plainSide d) (pad16 cryptlen)]
  simp only [planCcm, List.length_append, List.length_cons, List.length_nil] at *
  omega

theorem planGcm_length (d : Dir) (cryptlen aadeff : Nat) :
    1 ≤ (planGcm d cryptlen aadeff).length ∧ (planGcm d cryptlen aadeff).length ≤ 13 := by
  have haad := emitIf_length_le (decide (0 < aadeff)) [.habs .aad (pad16 aadeff)]
  have hpay := emitIf_length_le (decide (0 < cryptlen)) [.fuse (cipherSide d) (pad16 cryptlen)]
  simp only [planGcm, List.length_append, List.length_cons, List.length_nil] at *
  omega

theorem planGmac_length (d : Dir) (cryptlen aadeff : Nat) :
    1 ≤ (planGmac d cryptlen aadeff).length ∧ (planGmac d cryptlen aadeff).length ≤ 13 := by
  have hpay := emitIf_length_le (decide (0 < cryptlen)) [.copy, .habs .pin (pad16 (aadeff + 8 + cryptlen))]
  simp only [planGmac, List.length_append, List.length_cons, List.length_nil] at *
  omega

/-! The plans of the two modes with a separate MAC, by the verdict and the direction (R186, R188 to R190). -/

theorem planGen_of_single {c : Ctx} (h : c.cipherMode = .cbc ∨ c.cipherMode = .ctr) (d : Dir) (cryptlen aadeff a0len : Nat) :
    planGen c d true cryptlen aadeff a0len = planSingle c d cryptlen aadeff := by
  obtain h | h := h <;> simp [planGen, h]

theorem planGen_of_double_encrypt {c : Ctx} (h : c.cipherMode = .cbc ∨ c.cipherMode = .ctr) (cryptlen aadeff a0len : Nat) :
    planGen c .encrypt false cryptlen aadeff a0len = planDoubleEnc c cryptlen aadeff := by
  obtain h | h := h <;> simp [planGen, h]

theorem planGen_of_double_decrypt {c : Ctx} (h : c.cipherMode = .cbc ∨ c.cipherMode = .ctr) (cryptlen aadeff a0len : Nat) :
    planGen c .decrypt false cryptlen aadeff a0len = planDoubleDec c cryptlen aadeff := by
  obtain h | h := h <;> simp [planGen, h]

theorem planGen_length_of_separate_mac {c : Ctx} (h : c.cipherMode = .cbc ∨ c.cipherMode = .ctr) (d : Dir) (sp : Bool)
    (cryptlen aadeff a0len : Nat) :
    1 ≤ (planGen c d sp cryptlen aadeff a0len).length ∧ (planGen c d sp cryptlen aadeff a0len).length ≤ 13 := by
  cases sp with
  | true => rw [planGen_of_single h]; exact planSingle_length c d cryptlen aadeff
  | false =>
    cases d with
    | encrypt => rw [planGen_of_double_encrypt h]; exact planDoubleEnc_length c cryptlen aadeff
    | decrypt => rw [planGen_of_double_decrypt h]; exact planDoubleDec_length c cryptlen aadeff

/-- Every plan has 1 to 13 operations, also that of a tuple outside the rows of R186 (log 28). -/
theorem planGen_length (c : Ctx) (d : Dir) (sp : Bool) (cryptlen aadeff a0len : Nat) :
    1 ≤ (planGen c d sp cryptlen aadeff a0len).length ∧ (planGen c d sp cryptlen aadeff a0len).length ≤ 13 := by
  cases hmode : c.cipherMode with
  | cbc => exact planGen_length_of_separate_mac (.inl hmode) d sp cryptlen aadeff a0len
  | ctr => exact planGen_length_of_separate_mac (.inr hmode) d sp cryptlen aadeff a0len
  | ccm => simpa only [planGen, hmode] using planCcm_length d cryptlen aadeff a0len
  | gctr =>
    simp only [planGen, hmode]
    split
    · exact planGmac_length d cryptlen aadeff
    · exact planGcm_length d cryptlen aadeff

end Sys2Proof.Machine

/-! How a setup step ends (`spec/40_host_commands.md` R103 to R111): `SETKEY` and `CLRKEY` end the command; `ENC` and `DEC` end
it with an error or start a plan. -/

namespace Sys2Proof.Machine

open Sys2Proof

/-- `t` is a completion of a command, with success (R109) or with an error (R290). -/
def EndsCommand (t : State) : Prop := ∃ u : State, t = u.complete ∨ ∃ e, t = u.raise e

theorem EndsCommand.of_complete (u : State) : EndsCommand u.complete := ⟨u, .inl rfl⟩

theorem EndsCommand.of_raise (u : State) (e : CmdError) : EndsCommand (u.raise e) := ⟨u, .inr ⟨e, rfl⟩⟩

theorem execSetkey_ends (s : State) : ∃ t, execSetkey s = .next t ∧ EndsCommand t := by
  simp only [execSetkey]
  split
  · exact ⟨_, rfl, .of_raise _ _⟩
  · split
    · exact ⟨_, rfl, .of_raise _ _⟩
    · split
      · exact ⟨_, rfl, .of_raise _ _⟩
      · exact ⟨_, rfl, .of_complete _⟩

theorem execClrkey_ends (s : State) : ∃ t, execClrkey s = .next t ∧ EndsCommand t := ⟨_, rfl, .of_complete _⟩

theorem illegalWord_ends (s : State) : ∃ t, illegalWord s = .next t ∧ EndsCommand t := ⟨_, rfl, .of_raise _ _⟩

/-- A request's setup raises an error, or it leaves the block in `EXEC` at the first of 1 to 13 plan words (R107, R207). -/
theorem requestSetup_cases (s : State) (d : Dir) :
    EndsCommand (s.requestSetup d) ∨
      ((s.requestSetup d).phase = .exec ∧ (s.requestSetup d).status.busy = s.status.busy ∧
        (s.requestSetup d).pend = s.pend ∧ (s.requestSetup d).pp = 0 ∧
        1 ≤ (s.requestSetup d).plen.toNat ∧ (s.requestSetup d).plen.toNat ≤ 13) := by
  unfold State.requestSetup
  split
  · exact .inl (.of_raise _ _)
  · split
    · exact .inl (.of_raise _ _)
    · rename_i v _
      dsimp only
      split
      · exact .inl (.of_raise _ _)
      · rename_i f a0len _
        have hlen := planGen_length s.ctx d v.sp v.cryptlen v.aadeff a0len.toNat
        refine .inr ⟨rfl, rfl, rfl, rfl, ?_⟩
        rw [BitVec.toNat_ofNat, Nat.mod_eq_of_lt (by omega)]
        exact hlen

end Sys2Proof.Machine

/-! The sequencing invariant (`spec/10_state.md` R33, R34, R40; `spec/40_host_commands.md` R109): each way a step can leave the
state keeps it, and from a state that has it the sequencer never finds itself without an enabled step. -/

namespace Sys2Proof.Machine

open Sys2Proof Sys2Proof.Safety

/-! `SeqOk` by phase. -/

theorem seqOk_idle_iff {s : State} (h : s.phase = .idle) :
    SeqOk s ↔ s.status.busy = false ∧ s.pend = .none ∧ Scrubbed s := by
  simp only [SeqOk, h]

theorem seqOk_setup_iff {s : State} (h : s.phase = .setup) :
    SeqOk s ↔ s.status.busy = true ∧ s.pend ≠ .none ∧ Scrubbed s := by
  simp only [SeqOk, h]

theorem seqOk_exec_iff {s : State} (h : s.phase = .exec) :
    SeqOk s ↔ s.status.busy = true ∧ (s.pend = .enc ∨ s.pend = .dec) ∧ s.pp.toNat < s.plen.toNat ∧ s.plen.toNat ≤ 13 := by
  simp only [SeqOk, h]

/-- While `BUSY = 0` the block is idle and clean. -/
theorem idle_of_seqOk_not_busy {s : State} (hs : SeqOk s) (hbusy : s.status.busy = false) :
    s.phase = .idle ∧ Scrubbed s := by
  cases hphase : s.phase with
  | idle => exact ⟨rfl, ((seqOk_idle_iff hphase).mp hs).2.2⟩
  | setup => simp [((seqOk_setup_iff hphase).mp hs).1] at hbusy
  | exec => simp [((seqOk_exec_iff hphase).mp hs).1] at hbusy

/-! The ends of a command (R109, R290). -/

theorem scrubbed_complete (s : State) : Scrubbed s.complete := ⟨rfl, rfl, rfl, rfl, rfl, rfl, rfl, rfl, rfl, rfl, rfl⟩

theorem scrubbed_raise (s : State) (e : CmdError) : Scrubbed (s.raise e) :=
  ⟨rfl, rfl, rfl, rfl, rfl, rfl, rfl, rfl, rfl, rfl, rfl⟩

theorem seqOk_complete (s : State) : SeqOk s.complete := ⟨rfl, rfl, scrubbed_complete s⟩

theorem seqOk_raise (s : State) (e : CmdError) : SeqOk (s.raise e) := ⟨rfl, rfl, scrubbed_raise s e⟩

theorem EndsCommand.seqOk {t : State} (h : EndsCommand t) : SeqOk t := by
  obtain ⟨u, rfl | ⟨e, rfl⟩⟩ := h
  · exact seqOk_complete u
  · exact seqOk_raise u e

/-! The operation step (R108). -/

theorem SameControl.seqOk {s u : State} (h : SameControl s u) (hphase : s.phase = .exec) (hs : SeqOk s) : SeqOk u := by
  rw [seqOk_exec_iff hphase] at hs
  rwa [seqOk_exec_iff (h.phase.trans hphase), h.status, h.pend, h.pp, h.plen]

/-- Moving on in a plan: past the last word the request completes, before it `PP` stays below `PLEN`. -/
theorem seqOk_advance {s : State} (hphase : s.phase = .exec) (hs : SeqOk s) : SeqOk s.advance := by
  obtain ⟨-, hadv⟩ | ⟨hlast, hadv⟩ := advance_cases s
  · rw [hadv]
    exact seqOk_complete _
  · obtain ⟨hbusy, hpend, hpp, hplen⟩ := (seqOk_exec_iff hphase).mp hs
    have hnext : (s.pp + 1).toNat < s.plen.toNat := by bv_omega
    rw [hadv]
    exact (seqOk_exec_iff (s := { s with pp := s.pp + 1 }) hphase).mpr ⟨hbusy, hpend, hnext, hplen⟩

theorem StepLeaves.seqOk {s t : State} (h : StepLeaves s t) (hphase : s.phase = .exec) (hs : SeqOk s) : SeqOk t := by
  obtain ⟨u, hsame, rfl | ⟨e, rfl⟩⟩ := h
  · exact seqOk_advance (hsame.phase.trans hphase) (hsame.seqOk hphase hs)
  · exact seqOk_raise u e

/-! The sequencer's turn, by what it fetches (R103, R108). -/

theorem fetch_of_setup {s : State} (hbusy : s.status.busy = true) (hphase : s.phase = .setup) :
    s.fetch = fetchPend s.pend := by
  simp [State.fetch, hbusy, hphase]

theorem fetch_of_exec {s : State} (hbusy : s.status.busy = true) (hphase : s.phase = .exec) : s.fetch = s.fetchPlan := by
  simp [State.fetch, hbusy, hphase]

theorem sequencerTurn_of_run {s : State} {i : Instr} (h : s.fetch = .run i) : sequencerTurn s = exec i s := by
  simp only [sequencerTurn, h]

theorem sequencerTurn_of_illegal {s : State} (h : s.fetch = .illegal) : sequencerTurn s = illegalWord s := by
  simp only [sequencerTurn, h]

/-- A plan word is a plan operation or a reserved word (R210). -/
theorem fetchPlan_cases (s : State) : (∃ i, s.fetchPlan = .run i ∧ i.format = .opw) ∨ s.fetchPlan = .illegal := by
  unfold State.fetchPlan
  cases hdec : decodePlan (s.planWord s.pp.toNat) with
  | ok i => exact .inl ⟨i, rfl, format_of_decodePlan hdec⟩
  | error e => exact .inr rfl

/-- The setup of a request keeps the invariant: `PEND` is a request, and the plan has at least one word and at most 13. -/
theorem seqOk_requestSetup {s : State} (d : Dir) (hbusy : s.status.busy = true) (hpend : s.pend = .enc ∨ s.pend = .dec) :
    SeqOk (s.requestSetup d) := by
  obtain hends | ⟨hphase', hbusy', hpend', hpp', hpos, hmax⟩ := requestSetup_cases s d
  · exact hends.seqOk
  · rw [seqOk_exec_iff hphase', hbusy', hpend', hpp']
    exact ⟨hbusy, hpend, hpos, hmax⟩

theorem seqOk_setupStep {s : State} (hphase : s.phase = .setup) (hs : SeqOk s) :
    ∃ t, sequencerTurn s = .next t ∧ SeqOk t := by
  obtain ⟨hbusy, hpending, -⟩ := (seqOk_setup_iff hphase).mp hs
  have hfetch := fetch_of_setup hbusy hphase
  cases hpend : s.pend with
  | none => exact absurd hpend hpending
  | setkey =>
    rw [hpend] at hfetch
    obtain ⟨t, hexec, hends⟩ := execSetkey_ends s
    exact ⟨t, (sequencerTurn_of_run hfetch).trans hexec, hends.seqOk⟩
  | enc =>
    rw [hpend] at hfetch
    exact ⟨s.requestSetup .encrypt, sequencerTurn_of_run hfetch, seqOk_requestSetup _ hbusy (.inl hpend)⟩
  | dec =>
    rw [hpend] at hfetch
    exact ⟨s.requestSetup .decrypt, sequencerTurn_of_run hfetch, seqOk_requestSetup _ hbusy (.inr hpend)⟩
  | clrkey =>
    rw [hpend] at hfetch
    obtain ⟨t, hexec, hends⟩ := execClrkey_ends s
    exact ⟨t, (sequencerTurn_of_run hfetch).trans hexec, hends.seqOk⟩
  | illegal =>
    rw [hpend] at hfetch
    obtain ⟨t, hexec, hends⟩ := illegalWord_ends s
    exact ⟨t, (sequencerTurn_of_illegal hfetch).trans hexec, hends.seqOk⟩

theorem seqOk_operationStep {s : State} (hphase : s.phase = .exec) (hs : SeqOk s) :
    ∃ t, sequencerTurn s = .next t ∧ SeqOk t := by
  obtain ⟨hbusy, -⟩ := (seqOk_exec_iff hphase).mp hs
  have hfetch := fetch_of_exec hbusy hphase
  obtain ⟨i, hrun, hformat⟩ | hillegal := fetchPlan_cases s
  · obtain ⟨t, hexec⟩ := exec_next i s
    exact ⟨t, (sequencerTurn_of_run (hfetch.trans hrun)).trans hexec, (exec_planOp_leaves hformat hexec).seqOk hphase hs⟩
  · obtain ⟨t, hexec, hends⟩ := illegalWord_ends s
    exact ⟨t, (sequencerTurn_of_illegal (hfetch.trans hillegal)).trans hexec, hends.seqOk⟩

theorem seqOk_sequencerTurn {s : State} (hs : SeqOk s) : ∃ t, sequencerTurn s = .next t ∧ SeqOk t := by
  cases hphase : s.phase with
  | idle =>
    obtain ⟨hidle, -⟩ := (seqOk_idle_iff hphase).mp hs
    exact ⟨s, sequencerTurn_of_not_busy hidle, hs⟩
  | setup => exact seqOk_setupStep hphase hs
  | exec => exact seqOk_operationStep hphase hs

/-! The host's operations (R100 to R102). A read changes `rdata` and `freeIx` at most, of which the invariant does not
speak. -/

theorem hostReadReg_state (s : State) (n : Nat) : (s.hostReadReg n).2 = s ∨ (s.hostReadReg n).2 = s.freed := by
  unfold State.hostReadReg
  split
  · exact .inl rfl
  · split
    · exact .inl rfl
    · split <;> exact .inr rfl

theorem hostReadByte_state (s : State) (sp : Space) (off : Nat) :
    (s.hostReadByte sp off).2 = s ∨ (s.hostReadByte sp off).2 = s.freed := by
  unfold State.hostReadByte
  split
  · exact .inl rfl
  · split
    · exact .inl rfl
    · split
      · exact .inr rfl
      · exact .inl rfl

theorem hostReadPlan_state (s : State) (i : Nat) : (s.hostReadPlan i).2 = s ∨ (s.hostReadPlan i).2 = s.freed := by
  unfold State.hostReadPlan
  split
  · exact .inl rfl
  · split
    · exact .inr rfl
    · exact .inl rfl

/-- What a host read leaves has the invariant: the state itself or the one with a free value used, and the answer. -/
theorem seqOk_answered {s r : State} (hs : SeqOk s) (hr : r = s ∨ r = s.freed) (v : Word) : SeqOk { r with rdata := v } := by
  obtain rfl | rfl := hr
  · exact hs
  · exact hs

theorem pendOfWord_ne_none (w : Word) : pendOfWord w ≠ .none := by
  unfold pendOfWord
  cases decodeCmd w with
  | error e => simp
  | ok i => cases i <;> simp [pendOf]

/-- Acceptance (R102): an idle block has a clean scratch, which the setup step then finds. -/
theorem seqOk_accept {s : State} (hscrubbed : Scrubbed s) (w : Word) : SeqOk (s.accept w) :=
  (seqOk_setup_iff (accept_phase s w)).mpr ⟨rfl, pendOfWord_ne_none w, hscrubbed⟩

theorem seqOk_hostWriteReg {s : State} (hs : SeqOk s) (n : Nat) (v : Word) : SeqOk (s.hostWriteReg n v) := by
  unfold State.hostWriteReg
  split
  · exact hs
  · rename_i hidle
    obtain ⟨-, hscrubbed⟩ := idle_of_seqOk_not_busy hs (by simpa using hidle)
    split
    · exact seqOk_accept hscrubbed v
    all_goals exact hs

theorem seqOk_hostWriteByte {s : State} (hs : SeqOk s) (sp : Space) (off : Nat) (b : Byte) :
    SeqOk (s.hostWriteByte sp off b) := by
  unfold State.hostWriteByte
  repeat' split
  all_goals exact hs

theorem seqOk_hostOp {s : State} (hs : SeqOk s) (op : HostOp) : SeqOk (s.hostOp op) := by
  cases op with
  | readReg n => exact seqOk_answered hs (hostReadReg_state s n) _
  | writeReg n v => exact seqOk_hostWriteReg hs n v
  | readByte sp off => exact seqOk_answered hs (hostReadByte_state s sp off) _
  | writeByte sp off b => exact seqOk_hostWriteByte hs sp off b
  | readPlan i => exact seqOk_answered hs (hostReadPlan_state s i) _
  | writePlan i w => exact hs

theorem seqOk_platformReset (u : State) : SeqOk u.platformReset :=
  seqOk_resetKeeping u (u.resets + 1)

/-- The invariant does not speak of the agenda: the event taken leaves it as it was. -/
theorem seqOk_with_agenda {s : State} (hs : SeqOk s) (rest : List Event) : SeqOk { s with agenda := rest } := hs

/-- Settles O57, event by event: the sequencer's turn, a host operation, a reset. -/
theorem sequencingInvariant : Obligations.SequencingInvariant := by
  intro s hs
  cases hagenda : s.agenda with
  | nil =>
    rw [step_of_agenda_nil hagenda]
    exact seqOk_sequencerTurn hs
  | cons event rest =>
    have hrest := seqOk_with_agenda hs rest
    cases event with
    | sequencer =>
      rw [step_of_agenda_sequencer hagenda]
      exact seqOk_sequencerTurn hrest
    | host op => exact ⟨_, step_of_agenda_host hagenda, seqOk_hostOp hrest op⟩
    | reset => exact ⟨_, step_of_agenda_reset hagenda, seqOk_platformReset _⟩

end Sys2Proof.Machine

/-! Host reads have no side effect (`spec/20_memory.md` R58, R63): a read answers in `rdata` and may use up one free value
(log 9, log 27). -/

namespace Sys2Proof.Machine

open Sys2Proof

/-- A read's answer, put on the state itself or on the one with a free value used, differs in `rdata` and `freeIx` only. -/
theorem answered_frame {s r : State} (hr : r = s ∨ r = s.freed) (v : Word) :
    ({ r with rdata := v } : State) = { s with rdata := v, freeIx := r.freeIx } := by
  obtain rfl | rfl := hr
  · rfl
  · rfl

/-- Settles O13: each kind of read leaves the state itself or the one with a free value used. -/
theorem readsHaveNoEffect : Obligations.ReadsHaveNoEffect := by
  rintro s op t (⟨n, rfl⟩ | ⟨sp, off, rfl⟩ | ⟨i, rfl⟩) rfl
  · exact answered_frame (hostReadReg_state s n) _
  · exact answered_frame (hostReadByte_state s sp off) _
  · exact answered_frame (hostReadPlan_state s i) _

end Sys2Proof.Machine

/-! The buffers stay in canonical form (`spec/20_memory.md` R50 to R52): the canonical form speaks of `mem` and `caps` only, the
named operations change the buffers by `writeRange` and `zeroKeyBuf` alone, and both keep it. -/

namespace Sys2Proof.Machine

open Sys2Proof

/-! The shared operations. -/

theorem memWf_advance {s : State} (h : s.memWf = true) : s.advance.memWf = true :=
  (memWf_congr (advance_mem s) (advance_caps s)).trans h

theorem memWf_zeroOutput {s : State} (h : s.memWf = true) : s.zeroOutput.memWf = true := memWf_writeRange .outBuf 0 _ h

theorem memWf_zeroIfWritten {s : State} (h : s.memWf = true) : s.zeroIfWritten.memWf = true := by
  obtain ⟨-, -, hz⟩ | ⟨-, hz⟩ := zeroIfWritten_cases s
  · rw [hz]
    exact memWf_zeroOutput h
  · rwa [hz]

/-- An error changes the buffers at most by zeroing the output (R290). -/
theorem memWf_raise {s : State} (h : s.memWf = true) (e : CmdError) : (s.raise e).memWf = true :=
  memWf_zeroIfWritten h

theorem memWf_require {s : State} (h : s.memWf = true) {pre : Bool} {k : State → State} (hk : (k s).memWf = true) :
    (s.require pre k).memWf = true := by
  cases hpre : pre with
  | true => rwa [require_of_true k rfl]
  | false => rw [require_of_false k rfl]; exact memWf_raise h _

theorem memWf_primitiveCall {s : State} (h : s.memWf = true) {k : State → State} (hk : (k s.drawn).memWf = true) :
    (s.primitiveCall k).memWf = true := by
  cases hdraw : s.draw with
  | true => rw [primitiveCall_of_true k hdraw]; exact memWf_raise (s := s.drawn) h _
  | false => rwa [primitiveCall_of_false k hdraw]

/-! The setup step (R103 to R111). -/

theorem memWf_execSetkey {s t : State} (h : s.memWf = true) (hexec : execSetkey s = .next t) : t.memWf = true := by
  have hz := memWf_zeroKeyBuf h
  simp only [execSetkey] at hexec
  split at hexec
  · cases hexec; exact memWf_raise hz _
  · split at hexec
    · cases hexec; exact memWf_raise hz _
    · split at hexec
      · rename_i e ds _
        cases hexec; exact memWf_raise (s := { s.zeroKeyBuf with draws := ds }) hz e
      · cases hexec; exact hz

/-- The setup of a request writes no buffer but by an error. -/
theorem memWf_requestSetup {s : State} (h : s.memWf = true) (d : Dir) : (s.requestSetup d).memWf = true := by
  unfold State.requestSetup
  split
  · exact memWf_raise h _
  · split
    · rename_i e _
      exact memWf_raise (s := { s with dir := d }) h e
    · dsimp only
      split
      · refine memWf_raise ?_ _
        exact h
      · exact h

/-! The operation step (R108). Only `CAPP`, `FUSE`, `COPY` and `TAGOUT` write a buffer, `OUTBUF`. -/

theorem memWf_absorb {s : State} (h : s.memWf = true) (data : List Byte) : (s.absorb data).memWf = true := h

theorem memWf_extract {s : State} (h : s.memWf = true) (dst : ExtDst) : (s.extract dst).memWf = true := by
  cases dst with
  | tags => exact h
  | digs => exact h

theorem memWf_compareTag {s : State} (h : s.memWf = true) : s.compareTag.memWf = true := by
  unfold State.compareTag
  split
  · exact memWf_advance h
  · exact memWf_raise (memWf_zeroOutput h) _

theorem memWf_storeTag {s : State} (h : s.memWf = true) : s.storeTag.memWf = true :=
  memWf_writeRange .outBuf s.cryptlen.toNat s.computedTag h

/-- Every instruction keeps the canonical form, one case per row of the table. -/
theorem memWf_exec {s t : State} (h : s.memWf = true) {i : Instr} (hexec : exec i s = .next t) : t.memWf = true := by
  cases i with
  | setkey => exact memWf_execSetkey h hexec
  | enc => cases hexec; exact memWf_requestSetup h _
  | dec => cases hexec; exact memWf_requestSetup h _
  | clrkey =>
    have hz := memWf_zeroKeyBuf h
    cases hexec; exact hz
  | keyldCe m d => cases hexec; exact memWf_advance h
  | keyldMeXcbc =>
    simp only [exec, execKeyldMeXcbc] at hexec
    split at hexec <;> cases hexec
    · exact memWf_require h (memWf_advance h)
    · exact memWf_raise h _
    · exact memWf_raise h _
  | keyldMeCbcmac => cases hexec; exact memWf_advance h
  | keyldMeGhash => cases hexec; exact memWf_require h (memWf_advance h)
  | stldCeCiv => cases hexec; exact memWf_advance h
  | stldCeCtr0p1 => cases hexec; exact memWf_advance h
  | stldCeJ2 => cases hexec; exact memWf_advance h
  | stldMeIpad =>
    simp only [exec, execStldMeIpad] at hexec
    split at hexec <;> cases hexec
    · exact memWf_advance h
    · exact memWf_raise h _
  | stldMeOpad =>
    simp only [exec, execStldMeOpad] at hexec
    split at hexec <;> cases hexec
    · exact memWf_advance h
    · exact memWf_raise h _
  | stldMeZero => cases hexec; exact memWf_require h (memWf_advance h)
  | habs src pad => cases hexec; exact memWf_require h (memWf_primitiveCall h (memWf_advance h))
  | capp =>
    cases hexec
    exact memWf_require h (memWf_primitiveCall (s := s.startOutput) h
      (memWf_advance (memWf_writeRange (s := s.startOutput.drawn) .outBuf 0 _ h)))
  | fuse side pad =>
    cases hexec
    exact memWf_require h (memWf_primitiveCall (s := s.startOutput) h
      (memWf_advance (memWf_absorb (memWf_writeRange (s := s.startOutput.drawn) .outBuf 0 _ h) _)))
  | copy =>
    cases hexec
    exact memWf_require h (memWf_advance (memWf_writeRange (s := s.startOutput) .outBuf 0 _ h))
  | hdrv => cases hexec; exact memWf_require h (memWf_primitiveCall h (memWf_advance h))
  | hfin => cases hexec; exact memWf_require h (memWf_primitiveCall h (memWf_advance h))
  | hext dst => cases hexec; exact memWf_require h (memWf_advance (memWf_extract h dst))
  | ctag blk => cases hexec; exact memWf_require h (memWf_primitiveCall h (memWf_advance h))
  | tagout mode =>
    cases hexec
    refine memWf_require h ?_
    cases mode with
    | store => exact memWf_advance (memWf_storeTag h)
    | cmp => exact memWf_compareTag h

theorem memWf_sequencerTurn {s t : State} (h : s.memWf = true) (hturn : sequencerTurn s = .next t) : t.memWf = true := by
  unfold sequencerTurn at hturn
  split at hturn
  · exact memWf_exec h hturn
  · cases hturn; exact memWf_raise h _
  · cases hturn; exact h
  · cases hturn

/-! The host's operations (R100 to R102) and the platform's reset (R310). -/

/-- Which register is written does not matter: none is a buffer. -/
theorem memWf_hostWriteReg {s : State} (h : s.memWf = true) (n : Nat) (v : Word) : (s.hostWriteReg n v).memWf = true := by
  unfold State.hostWriteReg
  split
  · exact h
  · split
    all_goals exact h

theorem memWf_hostWriteByte {s : State} (h : s.memWf = true) (sp : Space) (off : Nat) (b : Byte) :
    (s.hostWriteByte sp off b).memWf = true := by
  unfold State.hostWriteByte
  split
  · exact h
  · split
    · exact h
    · split
      · exact h
      · exact memWf_writeRange sp off [b] h

theorem memWf_hostOp {s : State} (h : s.memWf = true) (op : HostOp) : (s.hostOp op).memWf = true := by
  have hread (hr : (∃ n, op = .readReg n) ∨ (∃ sp off, op = .readByte sp off) ∨ (∃ i, op = .readPlan i)) :
      (s.hostOp op).memWf = true := by
    rw [readsHaveNoEffect s op _ hr rfl]
    exact h
  cases op with
  | readReg n => exact hread (.inl ⟨n, rfl⟩)
  | writeReg n v => exact memWf_hostWriteReg h n v
  | readByte sp off => exact hread (.inr (.inl ⟨sp, off, rfl⟩))
  | writeByte sp off b => exact memWf_hostWriteByte h sp off b
  | readPlan i => exact hread (.inr (.inr ⟨i, rfl⟩))
  | writePlan i w => exact h

/-- After a reset no space lists a byte, whatever the capacities. -/
theorem memWf_platformReset (s : State) : s.platformReset.memWf = true := by
  rw [memWf_iff]
  intro sp
  cases sp <;> rfl

/-- Settles O54, event by event: the sequencer's turn, a host operation, a reset. -/
theorem memoryStaysCanonical : Obligations.MemoryStaysCanonical := by
  intro s t h hstep
  cases hagenda : s.agenda with
  | nil =>
    rw [step_of_agenda_nil hagenda] at hstep
    exact memWf_sequencerTurn h hstep
  | cons event rest =>
    have hrest : ({ s with agenda := rest } : State).memWf = true := h
    cases event with
    | sequencer =>
      rw [step_of_agenda_sequencer hagenda] at hstep
      exact memWf_sequencerTurn hrest hstep
    | host op =>
      rw [step_of_agenda_host hagenda] at hstep
      cases hstep
      exact memWf_hostOp hrest op
    | reset =>
      rw [step_of_agenda_reset hagenda] at hstep
      cases hstep
      exact memWf_platformReset _

end Sys2Proof.Machine

/-! The encoding (`spec/30_encoding.md` R70, R71, R80 to R83). A plan word is its fields and the fields are the word, so every
statement about plan words is one about `Fields`; there the decoder and `Instr.fields` are inverse to each other. -/

namespace Sys2Proof

/-! The fields of a word (R80). -/

section
open BitVec

/-- Each field is read past the fields packed below it. -/
theorem fieldsOf_word (f : Fields) : fieldsOf f.word = f := by
  obtain ⟨rsv, dir, hsel, pad, sel, eng, opc⟩ := f
  simp only [fieldsOf, Fields.word, Fields.mk.injEq]
  refine ⟨?_, ?_, ?_, ?_, ?_, ?_, extractLsb'_append_eq_right⟩
  · iterate 6 rw [extractLsb'_append_eq_of_le (by decide)]
    exact extractLsb'_eq_self
  · iterate 5 rw [extractLsb'_append_eq_of_le (by decide)]
    exact extractLsb'_append_eq_right
  · iterate 4 rw [extractLsb'_append_eq_of_le (by decide)]
    exact extractLsb'_append_eq_right
  · iterate 3 rw [extractLsb'_append_eq_of_le (by decide)]
    exact extractLsb'_append_eq_right
  · iterate 2 rw [extractLsb'_append_eq_of_le (by decide)]
    exact extractLsb'_append_eq_right
  · rw [extractLsb'_append_eq_of_le (by decide)]
    exact extractLsb'_append_eq_right

/-- Adjacent fields join: the seven of R80 lie side by side and cover the word. -/
theorem word_fieldsOf (w : Word) : (fieldsOf w).word = w := by
  have hjoined : (fieldsOf w).word = extractLsb' 0 (17 + 1 + 1 + 4 + 4 + 1 + 4) w := by
    simp only [Fields.word, fieldsOf]
    iterate 6 rw [extractLsb'_append_extractLsb'_eq_extractLsb' (by rfl)]
  exact hjoined.trans extractLsb'_eq_self

end

/-! The selectors of R82 and the one-bit operands of R80: reading what was written, and writing what was read. -/

@[simp] theorem CeMode.ofCode_code (m : CeMode) : CeMode.ofCode m.code = some m := by cases m <;> rfl

@[simp] theorem AbsSrc.ofCode_code (src : AbsSrc) : AbsSrc.ofCode src.code = some src := by cases src <;> rfl

@[simp] theorem ExtDst.ofCode_code (dst : ExtDst) : ExtDst.ofCode dst.code = some dst := by cases dst <;> rfl

@[simp] theorem MaskBlk.ofCode_code (blk : MaskBlk) : MaskBlk.ofCode blk.code = some blk := by cases blk <;> rfl

theorem CeMode.code_of_ofCode {c : BitVec 4} {m : CeMode} (h : CeMode.ofCode c = some m) : m.code = c := by
  revert c
  cases m <;> decide

theorem AbsSrc.code_of_ofCode {c : BitVec 4} {src : AbsSrc} (h : AbsSrc.ofCode c = some src) : src.code = c := by
  revert c
  cases src <;> decide

theorem ExtDst.code_of_ofCode {c : BitVec 4} {dst : ExtDst} (h : ExtDst.ofCode c = some dst) : dst.code = c := by
  revert c
  cases dst <;> decide

theorem MaskBlk.code_of_ofCode {c : BitVec 4} {blk : MaskBlk} (h : MaskBlk.ofCode c = some blk) : blk.code = c := by
  revert c
  cases blk <;> decide

@[simp] theorem Dir.ofBit_bit (d : Dir) : Dir.ofBit d.bit = d := by cases d <;> rfl

@[simp] theorem Side.ofBit_bit (side : Side) : Side.ofBit side.bit = side := by cases side <;> rfl

@[simp] theorem TagMode.ofBit_bit (mode : TagMode) : TagMode.ofBit mode.bit = mode := by cases mode <;> rfl

@[simp] theorem Dir.bit_ofBit : ∀ b, (Dir.ofBit b).bit = b := by decide

@[simp] theorem Side.bit_ofBit : ∀ b, (Side.ofBit b).bit = b := by decide

@[simp] theorem TagMode.bit_ofBit : ∀ b, (TagMode.ofBit b).bit = b := by decide

theorem padOk_iff {pad : Nat} : padOk pad = true ↔ pad < 16 := by simp [padOk]

/-! When the parts of the decoder answer an instruction. -/

theorem zeroed_eq_ok_iff {zero : Prop} [Decidable zero] {r : Except Reject Instr} {i : Instr} :
    zeroed zero r = .ok i ↔ zero ∧ r = .ok i := by
  by_cases h : zero <;> simp [zeroed, h]

theorem selected_eq_ok_iff {α : Type} {o : Option α} {k : α → Instr} {i : Instr} :
    selected o k = .ok i ↔ ∃ x, o = some x ∧ k x = i := by
  cases o <;> simp [selected]

/-- An operation without a selector: `SEL` must be 0 (R82). -/
theorem unselected_eq_ok_iff {c : Prop} [Decidable c] {i j : Instr} :
    (if c then .ok i else .error .reservedSelector : Except Reject Instr) = .ok j ↔ c ∧ i = j := by
  split <;> simp [*]

theorem decodePlain_eq_ok_iff {f : Fields} {i j : Instr} :
    decodePlain f i = .ok j ↔ (f.eng = 0 ∧ f.pad = 0 ∧ f.hsel = 0 ∧ f.dir = 0) ∧ f.sel = 0 ∧ i = j := by
  simp only [decodePlain, zeroed_eq_ok_iff, unselected_eq_ok_iff]

/-- The sixteen values of `OPC`, for the case split along R81. -/
theorem opcode_cases (opc : BitVec 4) :
    opc = 0 ∨ opc = 1 ∨ opc = 2 ∨ opc = 3 ∨ opc = 4 ∨ opc = 5 ∨ opc = 6 ∨ opc = 7 ∨ opc = 8 ∨ opc = 9 ∨ opc = 10 ∨ opc = 11
      ∨ opc = 12 ∨ opc = 13 ∨ opc = 14 ∨ opc = 15 := by
  revert opc
  decide

/-! The decoder reads back the fields of a plan operation. -/

theorem decodeFields_fields {i : Instr} (hwf : i.wellFormed = true) (hformat : i.format = .opw) :
    decodeFields i.fields = .ok i := by
  cases i with
  | setkey | enc | dec | clrkey => nomatch hformat
  | keyldCe m d => simp [decodeFields, decodeKeyld, Instr.fields, mkFields, zeroed, selected]
  | habs src pad =>
    have hpad : pad < 16 := padOk_iff.mp hwf
    simp [decodeFields, Instr.fields, mkFields, zeroed, selected, hpad]
  | fuse side pad =>
    have hpad : pad < 16 := padOk_iff.mp hwf
    simp [decodeFields, Instr.fields, mkFields, zeroed, hpad]
  | hext dst => simp [decodeFields, Instr.fields, mkFields, zeroed, selected]
  | ctag blk => simp [decodeFields, Instr.fields, mkFields, zeroed, selected]
  | tagout mode => simp [decodeFields, Instr.fields, mkFields, zeroed]
  | _ => rfl

/-! Fields that decode are those of the instruction they decode to. -/

/-- The fields are those of the well-formed instruction. -/
def Fields.Spell (f : Fields) (i : Instr) : Prop := i.wellFormed = true ∧ i.fields = f

theorem spell_of_decodePlain {dir hsel eng : BitVec 1} {pad sel opc : BitVec 4} {i j : Instr}
    (hi : (mkFields opc 0 0).Spell i) (h : decodePlain ⟨0, dir, hsel, pad, sel, eng, opc⟩ i = .ok j) :
    Fields.Spell ⟨0, dir, hsel, pad, sel, eng, opc⟩ j := by
  obtain ⟨⟨rfl, rfl, rfl, rfl⟩, rfl, rfl⟩ := decodePlain_eq_ok_iff.mp h
  exact hi

theorem spell_of_decodeKeyld {dir hsel eng : BitVec 1} {pad sel : BitVec 4} {i : Instr}
    (h : decodeKeyld ⟨0, dir, hsel, pad, sel, eng, 1⟩ = .ok i) : Fields.Spell ⟨0, dir, hsel, pad, sel, eng, 1⟩ i := by
  unfold decodeKeyld at h
  split at h
  next heng =>
    obtain rfl : eng = 0 := heng
    simp only [zeroed_eq_ok_iff, selected_eq_ok_iff] at h
    obtain ⟨⟨rfl, rfl⟩, m, hm, rfl⟩ := h
    exact ⟨rfl, by simp [Instr.fields, mkFields, CeMode.code_of_ofCode hm]⟩
  next heng =>
    obtain rfl : eng = 1 := (BitVec.eq_zero_or_eq_one eng).resolve_left heng
    simp only [zeroed_eq_ok_iff] at h
    obtain ⟨⟨rfl, rfl, rfl⟩, h⟩ := h
    split at h <;> cases h
    all_goals
      rename_i hsel
      exact ⟨rfl, by simp [Instr.fields, mkFields, BitVec.toNat_eq, hsel]⟩

theorem spell_of_decodeStld {dir hsel eng : BitVec 1} {pad sel : BitVec 4} {i : Instr}
    (h : decodeStld ⟨0, dir, hsel, pad, sel, eng, 2⟩ = .ok i) : Fields.Spell ⟨0, dir, hsel, pad, sel, eng, 2⟩ i := by
  simp only [decodeStld, zeroed_eq_ok_iff] at h
  obtain ⟨⟨rfl, rfl, rfl⟩, h⟩ := h
  split at h
  next heng =>
    obtain rfl : eng = 0 := heng
    split at h <;> cases h
    all_goals
      rename_i hsel
      exact ⟨rfl, by simp [Instr.fields, mkFields, BitVec.toNat_eq, hsel]⟩
  next heng =>
    obtain rfl : eng = 1 := (BitVec.eq_zero_or_eq_one eng).resolve_left heng
    split at h <;> cases h
    all_goals
      rename_i hsel
      exact ⟨rfl, by simp [Instr.fields, mkFields, BitVec.toNat_eq, hsel]⟩

/-- One case per opcode of R81, and the reserved ones. -/
theorem spell_of_decodeFields {f : Fields} {i : Instr} (h : decodeFields f = .ok i) : f.Spell i := by
  obtain ⟨rsv, dir, hsel, pad, sel, eng, opc⟩ := f
  simp only [decodeFields, zeroed_eq_ok_iff] at h
  obtain ⟨rfl, h⟩ := h
  obtain rfl | rfl | rfl | rfl | rfl | rfl | rfl | rfl | rfl | rfl | rfl | rfl | rfl | rfl | rfl | rfl := opcode_cases opc
  case inl => nomatch h
  · -- KEYLD
    exact spell_of_decodeKeyld h
  · -- STLD
    exact spell_of_decodeStld h
  · -- HABS
    obtain ⟨⟨rfl, rfl, rfl⟩, h⟩ := zeroed_eq_ok_iff.mp h
    obtain ⟨src, hsrc, rfl⟩ := selected_eq_ok_iff.mp h
    exact ⟨padOk_iff.mpr pad.isLt, by simp [Instr.fields, mkFields, AbsSrc.code_of_ofCode hsrc]⟩
  · -- CAPP
    exact spell_of_decodePlain ⟨rfl, rfl⟩ h
  · -- FUSE
    obtain ⟨⟨rfl, rfl⟩, h⟩ := zeroed_eq_ok_iff.mp h
    obtain ⟨rfl, rfl⟩ := unselected_eq_ok_iff.mp h
    exact ⟨padOk_iff.mpr pad.isLt, by simp [Instr.fields, mkFields]⟩
  · -- COPY
    exact spell_of_decodePlain ⟨rfl, rfl⟩ h
  · -- HDRV
    exact spell_of_decodePlain ⟨rfl, rfl⟩ h
  · -- HFIN
    exact spell_of_decodePlain ⟨rfl, rfl⟩ h
  · -- HEXT
    obtain ⟨⟨rfl, rfl, rfl, rfl⟩, h⟩ := zeroed_eq_ok_iff.mp h
    obtain ⟨dst, hdst, rfl⟩ := selected_eq_ok_iff.mp h
    exact ⟨rfl, by simp [Instr.fields, mkFields, ExtDst.code_of_ofCode hdst]⟩
  · -- CTAG
    obtain ⟨⟨rfl, rfl, rfl, rfl⟩, h⟩ := zeroed_eq_ok_iff.mp h
    obtain ⟨blk, hblk, rfl⟩ := selected_eq_ok_iff.mp h
    exact ⟨rfl, by simp [Instr.fields, mkFields, MaskBlk.code_of_ofCode hblk]⟩
  · -- TAGOUT
    obtain ⟨⟨rfl, rfl, rfl⟩, h⟩ := zeroed_eq_ok_iff.mp h
    obtain ⟨rfl, rfl⟩ := unselected_eq_ok_iff.mp h
    exact ⟨rfl, by simp [Instr.fields, mkFields]⟩
  all_goals nomatch h

/-! Commands (R71), and the two formats together (R70). -/

theorem encode_of_command {i : Instr} (hformat : i.format = .cmdw) : encode i = i.cop := by
  simp only [encode, hformat]

theorem encode_of_planOp {i : Instr} (hformat : i.format = .opw) : encode i = i.fields.word := by
  simp only [encode, hformat]

theorem decodeCmd_cop {i : Instr} (hformat : i.format = .cmdw) : decodeCmd i.cop = .ok i := by
  cases i with
  | setkey | enc | dec | clrkey => rfl
  | _ => nomatch hformat

theorem command_of_decodeCmd {w : Word} {i : Instr} (h : decodeCmd w = .ok i) :
    i.wellFormed = true ∧ i.format = .cmdw ∧ i.cop = w := by
  unfold decodeCmd at h
  split at h <;> cases h
  all_goals
    rename_i hw
    exact ⟨rfl, rfl, (BitVec.eq_of_toNat_eq hw).symm⟩

/-- Settles O1: a command through its `COP`, a plan operation through its fields. -/
theorem decodeEncode : Obligations.DecodeEncode := by
  intro i hwf
  cases hformat : i.format with
  | cmdw =>
    rw [encode_of_command hformat]
    exact decodeCmd_cop hformat
  | opw =>
    have hfields : decodeFields (fieldsOf i.fields.word) = .ok i := by
      rw [fieldsOf_word]
      exact decodeFields_fields hwf hformat
    rw [encode_of_planOp hformat]
    exact hfields

/-- Settles O2: the fields a word decodes from are those of its instruction, and the fields determine the word. -/
theorem encodeDecode : Obligations.EncodeDecode := by
  intro fmt w i h
  cases fmt with
  | cmdw =>
    obtain ⟨hwf, hformat, hcop⟩ := command_of_decodeCmd h
    exact ⟨hwf, hformat, (encode_of_command hformat).trans hcop⟩
  | opw =>
    have hformat : i.format = .opw := format_of_decodePlan h
    obtain ⟨hwf, hfields⟩ : (fieldsOf w).Spell i := spell_of_decodeFields h
    exact ⟨hwf, hformat, by rw [encode_of_planOp hformat, hfields, word_fieldsOf]⟩

/-! Which fields decode (R82, R83): how many selectors each table lists, and the decoders with an operand list of their own. -/

theorem CeMode.exists_ofCode_iff {c : BitVec 4} : (∃ m, CeMode.ofCode c = some m) ↔ c.toNat ≤ 3 := by
  rw [← Option.isSome_iff_exists]
  revert c
  decide

theorem AbsSrc.exists_ofCode_iff {c : BitVec 4} : (∃ src, AbsSrc.ofCode c = some src) ↔ c.toNat ≤ 7 := by
  rw [← Option.isSome_iff_exists]
  revert c
  decide

theorem ExtDst.exists_ofCode_iff {c : BitVec 4} : (∃ dst, ExtDst.ofCode c = some dst) ↔ c.toNat ≤ 1 := by
  rw [← Option.isSome_iff_exists]
  revert c
  decide

theorem MaskBlk.exists_ofCode_iff {c : BitVec 4} : (∃ blk, MaskBlk.ofCode c = some blk) ↔ c.toNat ≤ 1 := by
  rw [← Option.isSome_iff_exists]
  revert c
  decide

theorem exists_zeroed_iff {zero : Prop} [Decidable zero] {r : Except Reject Instr} :
    (∃ i, zeroed zero r = .ok i) ↔ zero ∧ ∃ i, r = .ok i := by
  simp only [zeroed_eq_ok_iff, exists_and_left]

theorem exists_listed_iff {α : Type} {zero listed : Prop} [Decidable zero] {o : Option α} {k : α → Instr}
    (h : (∃ x, o = some x) ↔ listed) : (∃ i, zeroed zero (selected o k) = .ok i) ↔ zero ∧ listed := by
  simp [zeroed_eq_ok_iff, selected_eq_ok_iff, h]

theorem exists_unselected_iff {zero c : Prop} [Decidable zero] [Decidable c] {i : Instr} :
    (∃ j, zeroed zero (if c then .ok i else .error .reservedSelector) = .ok j) ↔ zero ∧ c := by
  simp [zeroed_eq_ok_iff, unselected_eq_ok_iff]

theorem exists_decodePlain_iff {f : Fields} {i : Instr} :
    (∃ j, decodePlain f i = .ok j) ↔ (f.eng = 0 ∧ f.pad = 0 ∧ f.hsel = 0 ∧ f.dir = 0) ∧ f.sel = 0 :=
  exists_unselected_iff

theorem exists_decodeKeyld_iff {f : Fields} :
    (∃ i, decodeKeyld f = .ok i) ↔
      f.pad = 0 ∧ f.hsel = 0 ∧ (if f.eng = 0 then f.sel.toNat ≤ 3 else f.dir = 0 ∧ 2 ≤ f.sel.toNat ∧ f.sel.toNat ≤ 4) := by
  unfold decodeKeyld
  split
  · rw [exists_listed_iff CeMode.exists_ofCode_iff, and_assoc]
  · rw [exists_zeroed_iff, and_assoc, and_assoc]
    refine and_congr_right' (and_congr_right' (and_congr_right' ?_))
    split
    · simp [*]
    · simp [*]
    · simp [*]
    · simp only [reduceCtorEq, exists_false, false_iff]
      grind

theorem exists_decodeStld_iff {f : Fields} :
    (∃ i, decodeStld f = .ok i) ↔ (f.pad = 0 ∧ f.hsel = 0 ∧ f.dir = 0) ∧ f.sel.toNat ≤ 2 := by
  rw [decodeStld, exists_zeroed_iff]
  refine and_congr_right' ?_
  split
  all_goals
    split
    · simp [*]
    · simp [*]
    · simp [*]
    · simp only [reduceCtorEq, exists_false, false_iff]
      grind

theorem bit_ne_one_iff {b : BitVec 1} : ¬ b = 1#1 ↔ b = 0#1 := by
  revert b
  decide

/-- Settles O3: opcode by opcode of R81, the zero tests and the selector test of that opcode are the conditions of R83. -/
theorem reservedPlanWords : Obligations.ReservedPlanWords := by
  intro w
  unfold decodePlan
  generalize fieldsOf w = f
  obtain ⟨rsv, dir, hsel, pad, sel, eng, opc⟩ := f
  refine exists_zeroed_iff.trans ?_
  dsimp only
  obtain rfl | rfl | rfl | rfl | rfl | rfl | rfl | rfl | rfl | rfl | rfl | rfl | rfl | rfl | rfl | rfl := opcode_cases opc
  case inl => simp
  · -- KEYLD
    refine (and_congr_right' exists_decodeKeyld_iff).trans ?_
    obtain rfl | rfl := BitVec.eq_zero_or_eq_one eng
    · simp [bit_ne_one_iff, and_assoc, and_comm, and_left_comm]
    · simp [bit_ne_one_iff, and_assoc, and_comm, and_left_comm]
  · -- STLD
    refine (and_congr_right' exists_decodeStld_iff).trans ?_
    simp [bit_ne_one_iff, and_assoc, and_comm, and_left_comm]
  · -- HABS
    refine (and_congr_right' (exists_listed_iff AbsSrc.exists_ofCode_iff)).trans ?_
    simp [bit_ne_one_iff, and_assoc, and_comm, and_left_comm]
  · -- CAPP
    refine (and_congr_right' exists_decodePlain_iff).trans ?_
    simp [bit_ne_one_iff, and_assoc, and_comm, and_left_comm]
  · -- FUSE
    refine (and_congr_right' exists_unselected_iff).trans ?_
    simp [bit_ne_one_iff, and_assoc, and_comm, and_left_comm]
  · -- COPY
    refine (and_congr_right' exists_decodePlain_iff).trans ?_
    simp [bit_ne_one_iff, and_assoc, and_comm, and_left_comm]
  · -- HDRV
    refine (and_congr_right' exists_decodePlain_iff).trans ?_
    simp [bit_ne_one_iff, and_assoc, and_comm, and_left_comm]
  · -- HFIN
    refine (and_congr_right' exists_decodePlain_iff).trans ?_
    simp [bit_ne_one_iff, and_assoc, and_comm, and_left_comm]
  · -- HEXT
    refine (and_congr_right' (exists_listed_iff ExtDst.exists_ofCode_iff)).trans ?_
    simp [bit_ne_one_iff, and_assoc, and_comm, and_left_comm]
  · -- CTAG
    refine (and_congr_right' (exists_listed_iff MaskBlk.exists_ofCode_iff)).trans ?_
    simp [bit_ne_one_iff, and_assoc, and_comm, and_left_comm]
  · -- TAGOUT
    refine (and_congr_right' exists_unselected_iff).trans ?_
    simp [bit_ne_one_iff, and_assoc, and_comm, and_left_comm]
  all_goals simp

/-- Settles O4: each word evaluates. -/
theorem sampleWords : Obligations.SampleWords :=
  ⟨rfl, rfl, rfl, rfl, rfl, rfl, rfl, rfl, rfl⟩

end Sys2Proof

/-! The sequencer's turn on a command or a plan word (`spec/40_host_commands.md` R103, R108, R111;
`spec/45_plan_ops.md` R210): what it fetches decides what it runs, and the event leaves the agenda. -/

namespace Sys2Proof.Machine

open Sys2Proof

/-- The sequencer moves next: its turn heads the agenda, or the agenda is empty (log 3). -/
theorem step_of_turn {s : State} {rest : List Event} (h : s.agenda = .sequencer :: rest ∨ (s.agenda = [] ∧ rest = [])) :
    step s = sequencerTurn { s with agenda := rest } := by
  obtain hturn | ⟨hnil, rfl⟩ := h
  · exact step_of_agenda_sequencer hturn
  · rw [step_of_agenda_nil hnil, ← hnil]

theorem fetchPlan_of_decode {s : State} {i : Instr} (h : decodePlan (s.planWord s.pp.toNat) = .ok i) :
    s.fetchPlan = .run i := by
  simp only [State.fetchPlan, h]

theorem fetchPlan_of_reserved {s : State} (h : ∀ i, decodePlan (s.planWord s.pp.toNat) ≠ .ok i) :
    s.fetchPlan = .illegal := by
  obtain ⟨i, hrun, -⟩ | hillegal := fetchPlan_cases s
  · unfold State.fetchPlan at hrun
    split at hrun
    · rename_i j hdec
      exact absurd hdec (h j)
    · cases hrun
  · exact hillegal

/-- `PEND` keeps which command was accepted (R102, R103). -/
theorem fetchPend_pendOf {i : Instr} (h : i.format = .cmdw) : fetchPend (pendOf i) = .run i := by
  cases i with
  | setkey | enc | dec | clrkey => rfl
  | _ => nomatch h

theorem pendOfWord_of_decode {w : Word} {i : Instr} (h : decodeCmd w = .ok i) : pendOfWord w = pendOf i := by
  simp only [pendOfWord, h]

/-- Settles O5: the turn fetches the instruction that `PLAN[PP]` decodes to. -/
theorem stepRunsPlanWord : Obligations.StepRunsPlanWord := by
  intro s i rest hagenda hbusy hphase hdec
  rw [step_of_turn hagenda]
  exact sequencerTurn_of_run ((fetch_of_exec hbusy hphase).trans (fetchPlan_of_decode hdec))

/-- Settles O6: the turn fetches the command that `PEND` stands for. -/
theorem stepRunsCommand : Obligations.StepRunsCommand := by
  intro s w i rest hagenda hbusy hphase hdec hpend
  obtain ⟨-, hcommand, -⟩ := command_of_decodeCmd hdec
  have hfetch : fetchPend s.pend = .run i := by rw [hpend, pendOfWord_of_decode hdec, fetchPend_pendOf hcommand]
  rw [step_of_turn hagenda]
  exact sequencerTurn_of_run ((fetch_of_setup hbusy hphase).trans hfetch)

/-- Settles O7: the turn finds a reserved word, in `PEND` or in `PLAN[PP]`. -/
theorem stepReservedWord : Obligations.StepReservedWord := by
  intro s rest hagenda hbusy hword
  rw [step_of_turn hagenda]
  obtain ⟨hphase, hpend⟩ | ⟨hphase, hreserved⟩ := hword
  · have hfetch : fetchPend s.pend = .illegal := by rw [hpend]; rfl
    exact sequencerTurn_of_illegal ((fetch_of_setup hbusy hphase).trans hfetch)
  · exact sequencerTurn_of_illegal ((fetch_of_exec hbusy hphase).trans (fetchPlan_of_reserved hreserved))

/-- Settles O33: the two cases of `advance`; the completing one reads off `complete`. -/
theorem stepAdvances : Obligations.StepAdvances := by
  intro s
  obtain ⟨hlast, hadv⟩ | ⟨hmore, hadv⟩ := advance_cases s
  · refine ⟨fun hmore => absurd hlast hmore, fun _ => ?_⟩
    rw [hadv]
    exact ⟨hlast, rfl, rfl, rfl, rfl, scrubbed_complete _, rfl, rfl, rfl, rfl, rfl, rfl, rfl, rfl, rfl, fun _ _ => rfl⟩
  · exact ⟨fun _ => hadv, fun hlast => absurd hlast hmore⟩

end Sys2Proof.Machine

/-! The host's registers and buffers (`spec/40_host_commands.md` R100 to R102, `spec/20_memory.md` R52, R63): what a write
stores and what a read answers, while idle and while busy. -/

namespace Sys2Proof.Machine

open Sys2Proof

/-! Register writes (R100, R102). -/

theorem hostWriteReg_of_busy {s : State} (h : s.status.busy = true) (n : Nat) (v : Word) : s.hostWriteReg n v = s := by
  simp only [State.hostWriteReg, h, if_true]

theorem hostWriteReg_cmd {s : State} (h : s.status.busy = false) (v : Word) : s.hostWriteReg 0 v = s.accept v := by
  simp [State.hostWriteReg, h]

/-- The registers numbered 3 to 7 are the read-write ones of R21. -/
theorem hostWriteReg_readOnly {s : State} {n : Nat} (h : n = 1 ∨ n = 2 ∨ 8 ≤ n) (v : Word) : s.hostWriteReg n v = s := by
  unfold State.hostWriteReg
  split
  · rfl
  · split
    case h_7 => rfl
    all_goals omega

/-- A command word is one of `COP` 1 to 4 with every other bit zero (R71, R86), so its code is its low three bits. -/
theorem pendOfWord_code (w : Word) :
    (pendOfWord w).code = if w.toNat / 16 = 0 ∧ 1 ≤ w.toNat % 16 ∧ w.toNat % 16 ≤ 4 then w.setWidth 3 else 7 := by
  cases hdec : decodeCmd w with
  | ok i =>
    obtain ⟨-, hformat, rfl⟩ := command_of_decodeCmd hdec
    rw [pendOfWord_of_decode hdec]
    cases i with
    | setkey | enc | dec | clrkey => decide
    | _ => nomatch hformat
  | error e =>
    have hreserved : ¬ (w.toNat / 16 = 0 ∧ 1 ≤ w.toNat % 16 ∧ w.toNat % 16 ≤ 4) := by
      rintro ⟨hhigh, hlow, hlow'⟩
      have hw : w.toNat = 1 ∨ w.toNat = 2 ∨ w.toNat = 3 ∨ w.toNat = 4 := by omega
      obtain hw | hw | hw | hw := hw <;> simp [decodeCmd, hw] at hdec
    rw [if_neg hreserved, pendOfWord, hdec]
    rfl

/-- Settles O9: a `CMD` write is discarded while busy and is acceptance while idle. -/
theorem acceptance : Obligations.Acceptance := by
  intro s w
  refine ⟨fun hbusy => hostWriteReg_of_busy hbusy 0 w, fun hidle => ?_⟩
  have haccept : s.hostOp (.writeReg 0 w) = s.accept w := hostWriteReg_cmd hidle w
  rw [haccept]
  exact ⟨pendOfWord_code w, rfl, rfl, rfl, rfl, rfl, planWord_of_zeroPlan (accept_plan s w), rfl, rfl⟩

/-- Settles O10, register by register. -/
theorem hostRegisterWrites : Obligations.HostRegisterWrites := by
  intro s n v
  refine ⟨fun hbusy => hostWriteReg_of_busy hbusy n v, fun hidle => ⟨?_, ?_, ?_, ?_, ?_, ?_⟩⟩
  case refine_6 => exact fun hn => hostWriteReg_readOnly hn v
  all_goals
    rintro rfl
    simp [State.hostOp, State.hostWriteReg, hidle]

/-! Register reads (R21, R63(b), R78, R79). -/

theorem hostReadReg_of_idle {s : State} (h : s.status.busy = false) (n : Nat) : s.hostReadReg n = (s.regValue n, s) := by
  unfold State.hostReadReg
  split
  · rename_i hn
    unfold State.regValue
    split
    case h_11 => rfl
    all_goals omega
  · simp [h]

theorem hostReadReg_status_of_busy {s : State} (h : s.status.busy = true) : s.hostReadReg 1 = (s.busyStatus, s.freed) := by
  simp [State.hostReadReg, h]

/-- R78's word holds the five flags at bits 0 to 4 and nothing above. -/
theorem statusWord_bits (st : Status) :
    st.word.getLsbD 0 = st.busy ∧ st.word.getLsbD 1 = st.done ∧ st.word.getLsbD 2 = st.err ∧ st.word.getLsbD 3 = st.ctxv
      ∧ st.word.getLsbD 4 = st.sp ∧ st.word.toNat < 32 := by
  obtain ⟨busy, done, err, ctxv, sp⟩ := st
  revert busy done err ctxv sp
  decide

/-- R79's codes fit the word. -/
theorem errWord_toNat (e : Option CmdError) : (errWord e).toNat = match e with | none => 0 | some e => e.code := by
  cases e with
  | none => rfl
  | some e => cases e <;> rfl

/-- While busy `SP` reads as the previous verdict or the current one (R63(b); log 10). -/
theorem busyStatus_eq (s : State) :
    ∃ sp, s.busyStatus = Status.word { s.status with sp := sp } ∧ (sp = s.spOld ∨ sp = s.newVerdict) := by
  refine ⟨_, rfl, ?_⟩
  split
  · exact .inl rfl
  · rename_i hne
    cases hold : s.spOld <;> cases hnew : s.newVerdict <;> cases s.freeWord.getLsbD 0 <;> simp_all

/-- Settles O11: the idle read answers `regValue`, the busy read of `STATUS` answers `busyStatus`. -/
theorem hostRegisterReads : Obligations.HostRegisterReads := by
  rintro s n t rfl
  refine ⟨fun hidle => ?_, ?_⟩
  · have hread : s.hostOp (.readReg n) = { s with rdata := s.regValue n } := by
      simp only [State.hostOp, hostReadReg_of_idle hidle]
    obtain ⟨hbusy, hbits⟩ := statusWord_bits s.status
    rw [hread]
    refine ⟨rfl, ?_, ?_, ?_, ?_, ?_, ?_, ?_, ?_, ?_, ?_, ?_⟩
    · rintro rfl
      exact ⟨hbusy.trans hidle, hbits⟩
    · rintro rfl
      refine (errWord_toNat s.errcode).trans ?_
      cases s.errcode with
      | none => rfl
      | some e => cases e <;> rfl
    case refine_11 =>
      rintro (rfl | hn)
      · rfl
      · show s.regValue n = 0
        unfold State.regValue
        split
        case h_11 => rfl
        all_goals omega
    case refine_9 | refine_10 =>
      rintro rfl
      simp only [State.regValue, BitVec.toNat_setWidth]
      omega
    all_goals
      rintro rfl
      rfl
  · rintro hbusy rfl
    have hread : s.hostOp (.readReg 1) = { s.freed with rdata := s.busyStatus } := by
      simp only [State.hostOp, hostReadReg_status_of_busy hbusy]
    obtain ⟨sp, hword, hsp⟩ := busyStatus_eq s
    obtain ⟨hb, hdone, herr, hctxv, hbit, hlt⟩ := statusWord_bits { s.status with sp := sp }
    rw [hread, hword]
    refine ⟨rfl, hb.trans hbusy, hdone, herr, hctxv, hlt, ?_, fun hexec => ?_⟩
    · exact hsp.imp hbit.trans hbit.trans
    · have hnew : s.newVerdict = s.status.sp := by simp only [State.newVerdict, hexec]
      rw [hnew] at hsp
      exact hsp.imp hbit.trans hbit.trans

/-! Buffer bytes and plan words (R38, R52, R101). -/

theorem hostWriteByte_discarded {s : State} {sp : Space} {off : Nat}
    (h : s.status.busy = true ∨ sp = .outBuf ∨ capSize s.caps sp ≤ off) (b : Byte) : s.hostWriteByte sp off b = s := by
  unfold State.hostWriteByte
  split
  · rfl
  · split
    · rfl
    · split
      · rfl
      · simp_all

theorem hostWriteByte_stored {s : State} {sp : Space} {off : Nat} (hidle : s.status.busy = false) (hsp : sp ≠ .outBuf)
    (hoff : off < capSize s.caps sp) (b : Byte) : s.hostWriteByte sp off b = s.writeRange sp off [b] := by
  simp [State.hostWriteByte, hidle, hsp, Nat.not_le.mpr hoff]

/-- One byte written inside a space reads back, every other one as before. -/
theorem readByte_write_one {s : State} {sp : Space} {off : Nat} (hoff : off < capSize s.caps sp) (b : Byte) (sp' : Space)
    (off' : Nat) :
    (s.writeRange sp off [b]).readByte sp' off' = if sp' = sp ∧ off' = off then b else s.readByte sp' off' := by
  rw [readByte_writeRange]
  by_cases hsame : sp' = sp ∧ off' = off
  · obtain ⟨rfl, rfl⟩ := hsame
    simp [hoff]
  · rw [if_neg hsame, if_neg]
    rintro ⟨hsp, -, hlo, hhi⟩
    exact hsame ⟨hsp, by simp at hhi; omega⟩

theorem hostReadByte_zero {s : State} {sp : Space} {off : Nat} (h : sp = .keyBuf ∨ capSize s.caps sp ≤ off) :
    (s.hostReadByte sp off).1 = 0 := by
  unfold State.hostReadByte
  split
  · rfl
  · rename_i hoff
    rw [if_pos (h.resolve_right hoff)]

theorem hostReadByte_of_idle {s : State} {sp : Space} {off : Nat} (hidle : s.status.busy = false)
    (h : ¬ (sp = .keyBuf ∨ capSize s.caps sp ≤ off)) : (s.hostReadByte sp off).1 = s.readByte sp off := by
  obtain ⟨hsp, hoff⟩ := not_or.mp h
  simp [State.hostReadByte, hoff, hsp, hidle]

theorem hostReadPlan_zero {s : State} {i : Nat} (h : 16 ≤ i) : (s.hostReadPlan i).1 = 0 := by
  simp [State.hostReadPlan, h]

theorem planWord_of_lt (s : State) {i : Nat} (h : i < 16) : s.planWord i = s.plan[i] := by
  simp [State.planWord, List.getD_eq_getElem?_getD, h]

theorem hostReadPlan_of_idle {s : State} (hidle : s.status.busy = false) (i : Nat) :
    (s.hostReadPlan i).1 = if h : i < 16 then s.plan[i] else 0 := by
  by_cases hi : i < 16
  · simp [State.hostReadPlan, hidle, Nat.not_le.mpr hi, hi, planWord_of_lt]
  · rw [hostReadPlan_zero (by omega), dif_neg hi]

/-- Settles O12, clause by clause from the rules of a byte write, a byte read and a plan read. -/
theorem hostBytes : Obligations.HostBytes := by
  intro s sp off b
  have hzero (h : sp = .keyBuf ∨ capSize s.caps sp ≤ off) : (s.hostOp (.readByte sp off)).rdata = 0 := by
    show (s.hostReadByte sp off).1.setWidth 32 = 0
    rw [hostReadByte_zero h]
    rfl
  refine ⟨fun h => hostWriteByte_discarded h b, fun hidle hsp hoff => ?_, fun hidle => ⟨?_, hostReadPlan_of_idle hidle⟩,
    fun _ _ => rfl, hzero, fun _ => hostReadPlan_zero⟩
  · have hwrite : s.hostOp (.writeByte sp off b) = s.writeRange sp off [b] := hostWriteByte_stored hidle hsp hoff b
    rw [hwrite]
    refine ⟨?_, rfl, fun sp' off' hother => ?_⟩
    · rw [readByte_write_one hoff, if_pos ⟨rfl, rfl⟩]
    · rw [readByte_write_one hoff, if_neg hother]
  · split
    · rename_i h
      exact hzero h
    · rename_i h
      show (s.hostReadByte sp off).1.setWidth 32 = _
      rw [hostReadByte_of_idle hidle h]

end Sys2Proof.Machine

/-! `CLRKEY` and the setup step of a request (`spec/40_host_commands.md` R105 to R107, R110): one equation per way a command
can go. -/

namespace Sys2Proof.Machine

open Sys2Proof Sys2Proof.Safety

/-! `CLRKEY` (R110). -/

theorem readByte_zeroKeyBuf (s : State) (sp : Space) (off : Nat) :
    s.zeroKeyBuf.readByte sp off = if sp = .keyBuf then 0 else s.readByte sp off := by
  split
  · rename_i hkey
    rw [hkey, readByte_zeroKeyBuf_key]
  · rename_i hother
    exact readByte_zeroKeyBuf_of_ne s hother off

/-- Settles O19: the completed state with the context and `KEYBUF` zeroized. -/
theorem clrkeyDestroys : Obligations.ClrkeyDestroys := fun s =>
  ⟨_, rfl, rfl, rfl, rfl, rfl, rfl, rfl, scrubbed_complete _, readByte_zeroKeyBuf s, rfl, rfl, rfl, rfl, rfl, rfl, rfl, rfl,
    rfl⟩

/-! The setup of a request (R107). -/

theorem exec_request (s : State) (d : Dir) :
    exec (match d with | .encrypt => .enc | .decrypt => .dec) s = .next (s.requestSetup d) := by
  cases d <;> rfl

theorem requestSetup_without_context {s : State} (h : s.status.ctxv = false) (d : Dir) :
    s.requestSetup d = s.raise .illegalCommand := by
  simp [State.requestSetup, h]

theorem requestSetup_of_mode_error {s : State} {d : Dir} {e : CmdError} (h : s.status.ctxv = true)
    (hmode : modeSelect s.caps s.ctx d s.inlen.toNat s.aadlen.toNat = .error e) :
    s.requestSetup d = State.raise { s with dir := d } e := by
  rw [State.requestSetup, if_neg (by simp [h])]
  simp only [hmode]

/-- The request latches and the verdict, as they are written before the Frame Builder runs (R107). -/
def State.latched (s : State) (d : Dir) (v : Verdict) : State :=
  { s with dir := d, cryptlen := BitVec.ofNat 32 v.cryptlen, aadeff := BitVec.ofNat 32 v.aadeff,
           status := { s.status with sp := v.sp } }

theorem requestSetup_of_frame_error {s : State} {d : Dir} {v : Verdict} {e : CmdError} (h : s.status.ctxv = true)
    (hmode : modeSelect s.caps s.ctx d s.inlen.toNat s.aadlen.toNat = .ok v)
    (hframe : frameBuild s.ctx (s.readRange .ivBuf 0 16) v.cryptlen v.aadeff = .error e) :
    s.requestSetup d = (s.latched d v).raise e := by
  rw [State.requestSetup, if_neg (by simp [h])]
  simp only [State.ivBytes, hmode, hframe]
  rfl

/-- The state in which a request's plan begins (R107). -/
def State.planned (s : State) (d : Dir) (v : Verdict) (f : Frame × BitVec 3) (plan : List Instr) : State :=
  { s.latched d v with frame := f.1, a0len := f.2, plan := planWords plan, plen := BitVec.ofNat 5 plan.length, pp := 0,
                       outw := false, phase := .exec }

theorem requestSetup_of_accepted {s : State} {d : Dir} {v : Verdict} {f : Frame × BitVec 3} (h : s.status.ctxv = true)
    (hmode : modeSelect s.caps s.ctx d s.inlen.toNat s.aadlen.toNat = .ok v)
    (hframe : frameBuild s.ctx (s.readRange .ivBuf 0 16) v.cryptlen v.aadeff = .ok f) :
    s.requestSetup d = s.planned d v f (planGen s.ctx d v.sp v.cryptlen v.aadeff f.2.toNat) := by
  obtain ⟨frame, a0len⟩ := f
  rw [State.requestSetup, if_neg (by simp [h])]
  simp only [State.ivBytes, hmode, hframe]
  rfl

/-- Settles O20. -/
theorem requestSetup : Obligations.RequestSetup := by
  intro s d v f a0len hctxv hmode hframe
  refine (exec_request s d).trans ?_
  rw [requestSetup_of_accepted hctxv hmode hframe]
  rfl

/-- An error raised before the plan begins writes no buffer, whatever latches the setup step wrote before it. -/
theorem readByte_raise_latched {s : State} (h : s.phase = .setup) (d : Dir) (v : Verdict) (e : CmdError) :
    ((s.latched d v).raise e).readByte = s.readByte :=
  readByte_raise_of_setup e (s := s.latched d v) fun hexec => absurd (h.symm.trans hexec.1) (by decide)

/-- Settles O21: the three refusals raise from the accepted state, with more or fewer latches written. -/
theorem requestRefused : Obligations.RequestRefused := by
  intro s d e hphase
  have hsetup : ¬ (s.phase = .exec ∧ s.outw = true) := by simp [hphase]
  refine ⟨fun hctxv => ?_, fun hctxv hmode => ?_, fun v hctxv hmode hframe => ?_⟩
  all_goals refine ⟨s.requestSetup d, exec_request s d, ?_⟩
  · rw [requestSetup_without_context hctxv]
    exact ⟨rfl, rfl, scrubbed_raise _ _, rfl, rfl, rfl, raise_ctx _ _, raise_draws _ _, raise_plan _ _, raise_pp _ _,
      raise_plen _ _, fun _ _ => by rw [readByte_raise_of_setup _ hsetup]⟩
  · rw [requestSetup_of_mode_error hctxv hmode]
    exact ⟨rfl, rfl, scrubbed_raise _ _, rfl, rfl, rfl, raise_ctx _ _, raise_draws _ _, raise_plan _ _, raise_pp _ _,
      raise_plen _ _, fun _ _ => by rw [readByte_raise_of_setup (s := { s with dir := d }) _ hsetup]; rfl⟩
  · rw [requestSetup_of_frame_error hctxv hmode hframe]
    exact ⟨rfl, rfl, scrubbed_raise _ _, rfl, rfl, rfl, raise_ctx _ _, raise_draws _ _, raise_plan _ _, raise_pp _ _,
      raise_plen _ _, fun _ _ => by rw [readByte_raise_latched hphase]⟩

end Sys2Proof.Machine

/-! Termination (`spec/40_host_commands.md` R112, R113): the setup step ends the command or starts a plan of at most 13
words, and every operation step ends it or moves to the next word. -/

namespace Sys2Proof.Machine

open Sys2Proof Sys2Proof.Safety

theorem turns_succ_of_step {s t : State} (h : step s = .next t) (k : Nat) : turns (k + 1) s = turns k t := by
  simp only [turns, h]

theorem turns_one_of_step {s t : State} (h : step s = .next t) : turns 1 s = .next t := turns_succ_of_step h 0

theorem turns_add {j : Nat} {s t : State} (h : turns j s = .next t) (k : Nat) : turns (j + k) s = turns k t := by
  induction j generalizing s with
  | zero => cases h; rw [Nat.zero_add]
  | succ j ih =>
    rw [Nat.succ_add]
    cases hstep : step s with
    | next u => exact (turns_succ_of_step hstep (j + k)).trans (ih ((turns_succ_of_step hstep j).symm.trans h))
    | fault r => simp [turns, hstep] at h
    | refused r => simp [turns, hstep] at h

theorem EndsCommand.flags {t : State} (h : EndsCommand t) :
    t.status.busy = false ∧ t.status.done = true ∧ t.phase = .idle := by
  obtain ⟨u, rfl | ⟨e, rfl⟩⟩ := h
  · exact ⟨rfl, rfl, rfl⟩
  · exact ⟨rfl, rfl, rfl⟩

theorem requestSetup_agenda (s : State) (d : Dir) : (s.requestSetup d).agenda = s.agenda := by
  unfold State.requestSetup
  split
  · exact raise_agenda _ _
  · split
    · exact raise_agenda _ _
    · dsimp only
      split
      · exact raise_agenda _ _
      · rfl

/-- The operation step with the sequencer to move: it ends the command or leaves the next word of the plan to run (R108). -/
theorem operationStep_cases {s : State} (hagenda : s.agenda = []) (hbusy : s.status.busy = true) (hphase : s.phase = .exec) :
    ∃ t, step s = .next t ∧ (EndsCommand t ∨
      (s.pp + 1 ≠ s.plen ∧ t.pp = s.pp + 1 ∧ t.plen = s.plen ∧ t.agenda = [] ∧ t.status.busy = true ∧ t.phase = .exec)) := by
  rw [step_of_agenda_nil hagenda]
  have hfetch := fetch_of_exec hbusy hphase
  obtain ⟨i, hrun, hformat⟩ | hillegal := fetchPlan_cases s
  · obtain ⟨t, hexec⟩ := exec_next i s
    refine ⟨t, (sequencerTurn_of_run (hfetch.trans hrun)).trans hexec, ?_⟩
    obtain ⟨u, hsame, rfl | ⟨e, rfl⟩⟩ := exec_planOp_leaves hformat hexec
    · obtain ⟨-, hadv⟩ | ⟨hmore, hadv⟩ := advance_cases u
      · rw [hadv]
        exact .inl (.of_complete _)
      · rw [hadv, ← hsame.pp, ← hsame.plen]
        exact .inr ⟨hmore, rfl, rfl, hsame.agenda.trans hagenda, (congrArg Status.busy hsame.status).trans hbusy,
          hsame.phase.trans hphase⟩
    · exact .inl (.of_raise _ _)
  · obtain ⟨t, hexec, hends⟩ := illegalWord_ends s
    exact ⟨t, (sequencerTurn_of_illegal (hfetch.trans hillegal)).trans hexec, .inl hends⟩

/-- A plan with `n` words left ends within `n` operation steps. -/
theorem plan_ends {n : Nat} {s : State} (hagenda : s.agenda = []) (hbusy : s.status.busy = true) (hphase : s.phase = .exec)
    (hleft : s.pp.toNat + n = s.plen.toNat) (hn : 1 ≤ n) : ∃ k t, k ≤ n ∧ turns k s = .next t ∧ EndsCommand t := by
  induction n generalizing s with
  | zero => omega
  | succ n ih =>
    obtain ⟨t, hstep, hends | ⟨hmore, hpp, hplen, hagenda', hbusy', hphase'⟩⟩ := operationStep_cases hagenda hbusy hphase
    · exact ⟨1, t, by omega, turns_one_of_step hstep, hends⟩
    · have hleft' : t.pp.toNat + n = t.plen.toNat := by
        rw [hpp, hplen]
        bv_omega
      have hn' : 1 ≤ n := by
        by_contra hlast
        exact hmore (by bv_omega)
      obtain ⟨k, u, hk, hturns, hends⟩ := ih hagenda' hbusy' hphase' hleft' hn'
      exact ⟨k + 1, u, by omega, (turns_succ_of_step hstep k).trans hturns, hends⟩

/-- A request ends within its setup step and one operation step per plan word (R207). -/
theorem request_ends {s : State} {d : Dir} (hstep : step s = .next (s.requestSetup d)) (hagenda : s.agenda = [])
    (hbusy : s.status.busy = true) : ∃ k t, k ≤ 14 ∧ turns k s = .next t ∧ EndsCommand t := by
  obtain hends | ⟨hphase', hbusy', -, hpp, hpos, hmax⟩ := requestSetup_cases s d
  · exact ⟨1, _, by omega, turns_one_of_step hstep, hends⟩
  · have hleft : (s.requestSetup d).pp.toNat + (s.requestSetup d).plen.toNat = (s.requestSetup d).plen.toNat := by
      rw [hpp]
      exact Nat.zero_add _
    obtain ⟨k, t, hk, hturns, hends⟩ :=
      plan_ends ((requestSetup_agenda s d).trans hagenda) (hbusy'.trans hbusy) hphase' hleft hpos
    exact ⟨k + 1, t, by omega, (turns_succ_of_step hstep k).trans hturns, hends⟩

/-- Settles O58, command by command. -/
theorem commandsTerminate : Obligations.CommandsTerminate := by
  rintro s p ⟨hagenda, hbusy, hphase, rfl⟩ hpending
  have hfetch := fetch_of_setup hbusy hphase
  have hturn := step_of_agenda_nil hagenda
  have once {t : State} (hstep : step s = .next t) (hends : EndsCommand t) :
      ∃ k t, k ≤ 14 ∧ turns k s = .next t ∧ EndsCommand t := ⟨1, t, by omega, turns_one_of_step hstep, hends⟩
  have hends : ∃ k t, k ≤ 14 ∧ turns k s = .next t ∧ EndsCommand t := by
    cases hpend : s.pend with
    | none => exact absurd hpend hpending
    | setkey =>
      rw [hpend] at hfetch
      obtain ⟨t, hexec, hends⟩ := execSetkey_ends s
      exact once (hturn.trans ((sequencerTurn_of_run hfetch).trans hexec)) hends
    | enc =>
      rw [hpend] at hfetch
      exact request_ends (d := .encrypt) (hturn.trans (sequencerTurn_of_run hfetch)) hagenda hbusy
    | dec =>
      rw [hpend] at hfetch
      exact request_ends (d := .decrypt) (hturn.trans (sequencerTurn_of_run hfetch)) hagenda hbusy
    | clrkey =>
      rw [hpend] at hfetch
      obtain ⟨t, hexec, hends⟩ := execClrkey_ends s
      exact once (hturn.trans ((sequencerTurn_of_run hfetch).trans hexec)) hends
    | illegal =>
      rw [hpend] at hfetch
      obtain ⟨t, hexec, hends⟩ := illegalWord_ends s
      exact once (hturn.trans ((sequencerTurn_of_illegal hfetch).trans hexec)) hends
  obtain ⟨k, t, hk, hturns, hends⟩ := hends
  exact ⟨k, t, hk, hturns, hends.flags⟩

end Sys2Proof.Machine

/-! `SETKEY` (`spec/40_host_commands.md` R104, `spec/41_key_schedule.md` R121 to R136): one equation per outcome, and the
context that an accepted blob gives. -/

namespace Sys2Proof.Machine

open Sys2Proof Sys2Proof.Safety

/-! Parts of a range. -/

theorem readRange_take (s : State) (sp : Space) (a n m : Nat) :
    (s.readRange sp a n).take m = s.readRange sp a (min m n) := by
  simp [State.readRange, ← List.map_take, List.take_range]

theorem readRange_drop (s : State) (sp : Space) (a n m : Nat) :
    (s.readRange sp a n).drop m = s.readRange sp (a + m) (n - m) := by
  apply List.ext_getElem (by simp)
  intro i _ _
  simp [readRange_getElem, Nat.add_assoc]

theorem slice_readRange (s : State) (sp : Space) {n b : Nat} (h : b ≤ n) (a : Nat) :
    slice (s.readRange sp 0 n) a b = s.readRange sp a (b - a) := by
  rw [slice, readRange_drop, readRange_take, Nat.zero_add, Nat.min_eq_left (by omega)]

/-! The Key Schedule Manager (R121). -/

/-- The context a blob gives: authentication key, encryption key and nonce, in this order (R122 to R124). -/
def keyedCtx (c : CfgFields) (ak ek nonce : List Byte) : Ctx :=
  { cipherMode := c.cipherMode, authMode := c.authMode, family := c.family, wrap := c.wrap, tagLen := c.tagLen,
    encKey := toReg 32 ek, encKeyLen := BitVec.ofNat 6 ek.length, nonce := toReg 4 nonce,
    nonceLen := BitVec.ofNat 3 (nonceLen c.wrap), authMat := deriveAuth c.authMode ak }

/-- The state's authentication key `KEYBUF[0..AUTHKEYLEN)`. -/
def State.authKey (s : State) : List Byte := s.readRange .keyBuf 0 s.authkeylen.toNat

/-- The context of the state's blob under a configuration. -/
def State.blobCtx (s : State) (c : CfgFields) : Ctx :=
  let k := s.keylen.toNat
  let a := s.authkeylen.toNat
  let n := nonceLen c.wrap
  keyedCtx c s.authKey (s.readRange .keyBuf a (k - a - n)) (s.readRange .keyBuf (k - n) n)

theorem drawMany_of_noFailure (n : Nat) {draws : List Bool} (h : ∀ b ∈ draws, b = false) :
    (drawMany n draws).1 = false := by
  induction n generalizing draws with
  | zero => rfl
  | succ n ih =>
    have hhead : draws.headD false = false := by
      cases draws with
      | nil => rfl
      | cons b ds => exact h b (List.mem_cons_self ..)
    rw [drawMany, hhead]
    exact ih fun b hb => h b (List.mem_of_mem_tail hb)

/-- Lengths that R121 refuses end in `InvalidKeyLength` before any primitive call. -/
theorem keySchedule_of_bad_lengths {s : State} {c : CfgFields}
    (h : ¬ KeyLensOk s.caps.keyCap c s.keylen.toNat s.authkeylen.toNat) :
    keySchedule s.caps c s.blob s.keylen.toNat s.authkeylen.toNat s.draws = (.error .invalidKeyLength, s.draws) := by
  unfold keySchedule
  split
  · rfl
  · rename_i hcap
    dsimp only
    split
    · rfl
    · rename_i hnonce
      split
      · rename_i hlens
        refine absurd ((keyLensOk_iff _ _ _ _).mpr ?_) h
        have hblob : s.blob.length = s.keylen.toNat := by
          rw [State.blob, readRange_length]
          omega
        simp only [slice_length, hblob, List.length_take] at hnonce hlens
        rw [Bool.and_eq_true] at hlens
        obtain ⟨henc, hauth⟩ := hlens
        refine ⟨by omega, by omega, ?_, ?_⟩
        · convert henc using 2
          omega
        · convert hauth using 2
          omega
      · rfl

/-- With accepted lengths the schedule derives the blob's context, unless a draw fails (R132). -/
theorem keySchedule_of_lengths {s : State} {c : CfgFields}
    (h : KeyLensOk s.caps.keyCap c s.keylen.toNat s.authkeylen.toNat) :
    keySchedule s.caps c s.blob s.keylen.toNat s.authkeylen.toNat s.draws
      = if (drawMany (authCalls c.authMode s.authKey) s.draws).1 then
          (.error .keyDerivationFailed, (drawMany (authCalls c.authMode s.authKey) s.draws).2)
        else (.ok (s.blobCtx c), (drawMany (authCalls c.authMode s.authKey) s.draws).2) := by
  obtain ⟨hcap, hsum, henc, hauth⟩ := (keyLensOk_iff _ _ _ _).mp h
  have hblob : s.blob = s.readRange .keyBuf 0 s.keylen.toNat := by rw [State.blob, Nat.min_eq_left hcap]
  have hkey : slice s.blob 0 s.authkeylen.toNat = s.authKey := by
    rw [hblob, slice_readRange s .keyBuf (by omega)]
    rfl
  have hpart : slice s.blob s.authkeylen.toNat s.keylen.toNat
      = s.readRange .keyBuf s.authkeylen.toNat (s.keylen.toNat - s.authkeylen.toNat) := by
    rw [hblob, slice_readRange s .keyBuf le_rfl]
  have hnonce : s.readRange .keyBuf (s.authkeylen.toNat + (s.keylen.toNat - s.authkeylen.toNat - nonceLen c.wrap))
        (s.keylen.toNat - s.authkeylen.toNat - (s.keylen.toNat - s.authkeylen.toNat - nonceLen c.wrap))
      = s.readRange .keyBuf (s.keylen.toNat - nonceLen c.wrap) (nonceLen c.wrap) := by
    congr 1 <;> omega
  have hlen : s.authKey.length = s.authkeylen.toNat := readRange_length ..
  rw [keySchedule, if_neg (by omega)]
  dsimp only
  rw [hkey, hpart, readRange_length, if_neg (by omega), readRange_take, readRange_drop, readRange_length, hlen, hnonce,
    Nat.min_eq_left (by omega), henc, hauth]
  cases hdraw : drawMany (authCalls c.authMode s.authKey) s.draws with
  | mk failed ds =>
    rw [State.blobCtx, keyedCtx, readRange_length]
    cases failed <;> rfl

/-! The command (R104). -/

theorem execSetkey_of_context {s : State} (h : s.status.ctxv = true) :
    execSetkey s = .next (s.zeroKeyBuf.raise .illegalCommand) := by
  simp [execSetkey, h]

theorem execSetkey_of_illegal_cfg {s : State} (h : s.status.ctxv = false) (hcfg : legalCfg s.cfg = none) :
    execSetkey s = .next (s.zeroKeyBuf.raise .illegalCommand) := by
  simp [execSetkey, h, hcfg]

theorem execSetkey_of_schedule_error {s : State} {c : CfgFields} {e : CmdError} {ds : List Bool}
    (h : s.status.ctxv = false) (hcfg : legalCfg s.cfg = some c)
    (hks : keySchedule s.caps c s.blob s.keylen.toNat s.authkeylen.toNat s.draws = (.error e, ds)) :
    execSetkey s = .next (State.raise { s.zeroKeyBuf with draws := ds } e) := by
  simp only [execSetkey, h, hcfg, hks]
  rfl

theorem execSetkey_of_schedule_ok {s : State} {c : CfgFields} {ctx : Ctx} {ds : List Bool}
    (h : s.status.ctxv = false) (hcfg : legalCfg s.cfg = some c)
    (hks : keySchedule s.caps c s.blob s.keylen.toNat s.authkeylen.toNat s.draws = (.ok ctx, ds)) :
    execSetkey s = .next (State.complete
      { s.zeroKeyBuf with draws := ds, ctx := ctx, status := { s.status with ctxv := true } }) := by
  rw [execSetkey, if_neg (by simp [h])]
  simp only [hcfg, hks]
  rfl

/-- Settles O16: the three refusals raise from the state with `KEYBUF` zeroized. -/
theorem setkeyRefused : Obligations.SetkeyRefused := by
  intro s
  refine ⟨fun hctxv => ?_, fun hctxv hcfg => ?_, fun c hctxv hcfg hlens => ?_⟩
  · exact ⟨_, execSetkey_of_context hctxv, rfl, raise_ctx _ _, rfl, rfl, rfl, rfl⟩
  · exact ⟨_, execSetkey_of_illegal_cfg hctxv ((legalCfg_eq_none_iff _).mpr hcfg), rfl, raise_ctx _ _, rfl, rfl, rfl, rfl⟩
  · have hlegal := (legalCfg_eq_some_iff _ _).mpr hcfg
    exact ⟨_, execSetkey_of_schedule_error hctxv hlegal (keySchedule_of_bad_lengths hlens), rfl, raise_ctx _ _, rfl, rfl,
      rfl, rfl⟩

/-! The blob's context, as the rules print it. -/

theorem encKeyLen_le_32 {f : Family} {n : Nat} (h : encKeyLenOk f n = true) : n ≤ 32 := by
  cases f <;> simp [encKeyLenOk] at h <;> omega

theorem nonceLen_le_4 (w : Wrap) : nonceLen w ≤ 4 := by cases w <;> decide

/-- R128's two pads over R127's key block. -/
theorem padState_eq {alg : MacAlg} {ak : List Byte} {dlen : Nat} (pad : Byte) (hd : (hashDigest alg ak).length = dlen)
    (h64 : dlen ≤ 64) :
    padState alg pad ak
      = { msg := (if 64 < ak.length then hashDigest alg ak ++ zeros (64 - dlen) else ak ++ zeros (64 - ak.length)).map
            (· ^^^ pad), fin := false } := by
  rw [padState, hmacKeyBlock_eq hd h64]
  rfl

theorem hashDigest_sha1 (m : List Byte) : hashDigest .sha1 m = sha1 m := rfl

theorem hashDigest_sha256 (m : List Byte) : hashDigest .sha256 m = sha256 m := rfl

/-- Settles O15: the completed state with the blob's context, whose parts the rules print. -/
theorem setkeyCreates : Obligations.SetkeyCreates := by
  intro s c
  dsimp only
  intro hctxv hcfg hdraws hlens
  obtain ⟨hcap, hsum, henc, hauth⟩ := (keyLensOk_iff _ _ _ _).mp hlens
  have hkey32 := encKeyLen_le_32 henc
  have hnonce4 := nonceLen_le_4 c.wrap
  have hks := keySchedule_of_lengths hlens
  rw [drawMany_of_noFailure _ hdraws] at hks
  have hlen : s.authKey.length = s.authkeylen.toNat := readRange_length ..
  rw [nonceBytes_eq]
  refine ⟨_, execSetkey_of_schedule_ok hctxv ((legalCfg_eq_some_iff _ _).mpr hcfg) hks, rfl, rfl, rfl, rfl, rfl, rfl, rfl,
    ?_, ?_, ?_, ?_, ?_, ?_, ?_, ?_, scrubbed_complete _, rfl, rfl, readByte_zeroKeyBuf s, rfl, rfl, rfl, rfl, rfl, rfl, rfl,
    rfl, rfl⟩
  · show (BitVec.ofNat 6 (s.readRange .keyBuf _ _).length).toNat = _
    rw [readRange_length, BitVec.toNat_ofNat, Nat.mod_eq_of_lt (by omega)]
  · exact (toReg_toList_of_le (by simpa using hkey32)).trans (by rw [readRange_length])
  · show (BitVec.ofNat 3 (nonceLen c.wrap)).toNat = _
    rw [BitVec.toNat_ofNat, Nat.mod_eq_of_lt (by omega)]
  · exact (toReg_toList_of_le (by simpa using hnonce4)).trans (by rw [readRange_length])
  all_goals
    intro hmode
    show deriveAuth c.authMode s.authKey = _
    rw [hmode, deriveAuth]
  · rw [padState_eq (dlen := 20) _ (by simp [hashDigest_sha1, sha1]) (by norm_num),
      padState_eq (dlen := 20) _ (by simp [hashDigest_sha1, sha1]) (by norm_num), hlen]
    rfl
  · rw [padState_eq (dlen := 32) _ (by simp [hashDigest_sha256, sha256]) (by norm_num),
      padState_eq (dlen := 32) _ (by simp [hashDigest_sha256, sha256]) (by norm_num), hlen]
    rfl
  · rfl

end Sys2Proof.Machine

/-! What the operations of a plan compute (`spec/45_plan_ops.md` R211 to R223): a relation on the registers they work on, and
the operation step that realizes it on the whole state. The request `r` is the state in which the plan begins; everything but
the work registers, the payload output and the failure draws stays as it is there. -/

namespace Sys2Proof.Machine

open Sys2Proof Sys2Proof.Safety

/-- What the operations of a plan work on: the engines, `F.H`, `TAGS`, the valid bytes of `DIGS`, the payload as produced. -/
structure Work where
  ce : CipherEngine
  me : MacEngine
  h : Block
  tags : Vector Byte 32
  digs : List Byte
  out : List Byte

/-- The work registers of a state. -/
def State.work (s : State) : Work :=
  { ce := s.ce, me := s.me, h := s.frame.h, tags := s.tags, digs := s.range .digs, out := s.payloadOut }

/-- `Range(sel)` (R215): two of the ranges are work registers, the others belong to the request. -/
def Work.range (r : State) (w : Work) : AbsSrc → List Byte
  | .pout => w.out
  | .digs => w.digs
  | .aad => r.range .aad
  | .pin => r.range .pin
  | .b0 => r.range .b0
  | .a0 => r.range .a0
  | .lenblk => r.range .lenblk
  | .iv8 => r.range .iv8

/-- The MAC engine absorbs a string. -/
def Work.absorb (w : Work) (data : List Byte) : Work := { w with me := { w.me with st := macAbsorb w.me.st data } }

/-- The payload output is written. -/
def Work.produce (w : Work) (y : List Byte) : Work := { w with out := y }

/-- What the cipher engine makes of a string (R217). -/
def CipherEngine.apply (ce : CipherEngine) (x : List Byte) : List Byte :=
  blockCipherApply ce.fam ce.keyBytes ce.mode ce.dir ce.iv x

/-- The string a `FUSE` absorbs: the cipher's input or its output (R218). -/
def fusedBytes (side : Side) (x y : List Byte) : List Byte :=
  match side with
  | .input => x
  | .output => y

/-- An operation of the request `r`, after the operations `pre`, goes on and takes the work registers from the first to the
second; one rule per operation, with its preconditions. -/
inductive Op (r : State) (pre : List Instr) : Instr → Work → Work → Prop
  | keyldCe (m : CeMode) (d : Dir) (w : Work) :
    Op r pre (.keyldCe m d) w { w with ce := { w.ce with fam := r.ctx.family, key := toReg 32 r.ctx.keyBytes,
                                                         keyLen := r.ctx.encKeyLen, mode := m, dir := d } }
  | keyldMeXcbc {k1 k2 k3 : Block} (w : Work) (hmode : r.ctx.authMode = .xcbc) (hmat : r.ctx.authMat = .xcbc k1 k2 k3) :
    Op r pre .keyldMeXcbc w { w with me := { w.me with alg := .xcbc, key := k1.toList ++ k2.toList ++ k3.toList } }
  | keyldMeCbcmac (w : Work) : Op r pre .keyldMeCbcmac w { w with me := { w.me with alg := .cbcmac, key := r.ctx.keyBytes } }
  | keyldMeGhash (w : Work) (hran : Instr.hdrv ∈ pre) :
    Op r pre .keyldMeGhash w { w with me := { w.me with alg := .ghash, key := w.h.toList } }
  | stldCeCiv (w : Work) : Op r pre .stldCeCiv w { w with ce := { w.ce with iv := r.frame.civ } }
  | stldCeCtr0p1 (w : Work) : Op r pre .stldCeCtr0p1 w { w with ce := { w.ce with iv := ctr0p1 r.frame.ctr0 } }
  | stldCeJ2 (w : Work) : Op r pre .stldCeJ2 w { w with ce := { w.ce with iv := r.frame.j2 } }
  | stldMeIpad {ipad opad : MacState} {alg : MacAlg} (w : Work) (hmat : r.ctx.authMat = .hmac ipad opad)
      (halg : hashAlg r.ctx.authMode = some alg) :
    Op r pre .stldMeIpad w { w with me := { alg := alg, key := [], st := ipad } }
  | stldMeOpad {ipad opad : MacState} {alg : MacAlg} (w : Work) (hmat : r.ctx.authMat = .hmac ipad opad)
      (halg : hashAlg r.ctx.authMode = some alg) :
    Op r pre .stldMeOpad w { w with me := { alg := alg, key := [], st := opad } }
  | stldMeZero (w : Work) (halg : zeroStateAlg w.me.alg = true) :
    Op r pre .stldMeZero w { w with me := { w.me with st := emptyMac } }
  | habs (src : AbsSrc) (pad : Nat) (w : Work) (hpad : pad < 16) (hfin : w.me.st.fin = false)
      (hdata : w.range r src ++ zeros pad ≠ []) :
    Op r pre (.habs src pad) w (w.absorb (w.range r src ++ zeros pad))
  | capp (w : Work) (hpos : 0 < r.cryptlen.toNat) (hmode : w.ce.mode = .cbc ∨ w.ce.mode = .ctr) :
    Op r pre .capp w (w.produce (w.ce.apply r.payloadIn))
  | fuse (side : Side) (pad : Nat) (w : Work) (hpad : pad < 16) (hpos : 0 < r.cryptlen.toNat) (hmode : w.ce.mode ≠ .ecb)
      (hfin : w.me.st.fin = false) :
    Op r pre (.fuse side pad) w
      ((w.produce (w.ce.apply r.payloadIn)).absorb (fusedBytes side r.payloadIn (w.ce.apply r.payloadIn) ++ zeros pad))
  | copy (w : Work) (hpos : 0 < r.cryptlen.toNat) : Op r pre .copy w (w.produce r.payloadIn)
  | hdrv (w : Work) (hmode : w.ce.mode = .ecb) (hdir : w.ce.dir = .encrypt) (hfam : w.ce.fam = .aes) :
    Op r pre .hdrv w { w with h := aesEnc w.ce.keyBytes (zeroBytes 16) }
  | hfin (w : Work) (halg : finalizes w.me.alg = true) (hfin : w.me.st.fin = false) :
    Op r pre .hfin w { w with me := { w.me with st := macFinalize w.me.st } }
  | hextTags (w : Work) (hok : macDigestOk w.me.alg w.me.st = true) :
    Op r pre (.hext .tags) w { w with tags := toReg 32 (macDigest w.me.alg w.me.key w.me.st) }
  | hextDigs (w : Work) (hok : macDigestOk w.me.alg w.me.st = true) (halg : w.me.alg = .sha1 ∨ w.me.alg = .sha256) :
    Op r pre (.hext .digs) w { w with digs := macDigest w.me.alg w.me.key w.me.st }
  | ctag (blk : MaskBlk) (w : Work) (hran : Instr.hext .tags ∈ pre) (hfam : r.ctx.family = .aes) :
    Op r pre (.ctag blk) w
      { w with tags := toReg 32 (xorBytes (w.tags.toList.take 16) (aesEnc r.ctx.keyBytes (r.maskBlock blk)).toList
                                  ++ w.tags.toList.drop 16) }

/-- The operations that the rules speak of are well-formed plan operations. -/
theorem Op.legal {r : State} {pre : List Instr} {i : Instr} {w w' : Work} (h : Op r pre i w w') :
    i.wellFormed = true ∧ i.format = .opw := by
  cases h with
  | habs _ _ _ hpad => exact ⟨padOk_iff.mpr hpad, rfl⟩
  | fuse _ _ _ hpad => exact ⟨padOk_iff.mpr hpad, rfl⟩
  | _ => exact ⟨rfl, rfl⟩

/-! The state of a request in execution. -/

/-- `s` is a state of the request that began in `r`: session, flags, latches, frame and the buffers but `OUTBUF` are those of
`r`, and no draw is a failure. -/
structure InRequest (r s : State) : Prop where
  ctx : s.ctx = r.ctx
  status : s.status = r.status
  caps : s.caps = r.caps
  dir : s.dir = r.dir
  cryptlen : s.cryptlen = r.cryptlen
  aadeff : s.aadeff = r.aadeff
  a0len : s.a0len = r.a0len
  frame : s.frame = { r.frame with h := s.frame.h }
  bytes : ∀ sp, sp ≠ .outBuf → ∀ off, s.readByte sp off = r.readByte sp off
  noFailure : NoFailure s

theorem InRequest.refl {r : State} (h : NoFailure r) : InRequest r r :=
  ⟨rfl, rfl, rfl, rfl, rfl, rfl, rfl, rfl, fun _ _ _ => rfl, h⟩

section

variable {r s : State}

/-- The work registers, `OUTW` and the plan position are free. -/
theorem InRequest.with_registers (h : InRequest r s) (ce : CipherEngine) (me : MacEngine) (hash : Block)
    (tags digs : Vector Byte 32) (diglen : BitVec 6) (outw : Bool) (pp : BitVec 5) :
    InRequest r { s with ce := ce, me := me, frame := { s.frame with h := hash }, tags := tags, digs := digs,
                         diglen := diglen, outw := outw, pp := pp } :=
  ⟨h.ctx, h.status, h.caps, h.dir, h.cryptlen, h.aadeff, h.a0len, congrArg (fun f : Frame => { f with h := hash }) h.frame,
    h.bytes, h.noFailure⟩

theorem InRequest.with_pp (h : InRequest r s) (pp : BitVec 5) : InRequest r { s with pp := pp } :=
  h.with_registers s.ce s.me s.frame.h s.tags s.digs s.diglen s.outw pp

theorem InRequest.drawn (h : InRequest r s) : InRequest r s.drawn :=
  ⟨h.ctx, h.status, h.caps, h.dir, h.cryptlen, h.aadeff, h.a0len, h.frame, h.bytes,
    fun b hb => h.noFailure b (List.mem_of_mem_tail hb)⟩

theorem InRequest.startOutput (h : InRequest r s) : InRequest r s.startOutput :=
  h.with_registers s.ce s.me s.frame.h s.tags s.digs s.diglen true s.pp

theorem InRequest.absorb (h : InRequest r s) (data : List Byte) : InRequest r (s.absorb data) :=
  h.with_registers s.ce { s.me with st := macAbsorb s.me.st data } s.frame.h s.tags s.digs s.diglen s.outw s.pp

theorem InRequest.writeOut (h : InRequest r s) (a : Nat) (bs : List Byte) : InRequest r (s.writeRange .outBuf a bs) :=
  ⟨h.ctx, h.status, h.caps, h.dir, h.cryptlen, h.aadeff, h.a0len, h.frame,
    fun sp hsp off => by rw [readByte_writeRange, if_neg fun hw => hsp hw.1]; exact h.bytes sp hsp off, h.noFailure⟩

theorem InRequest.draw (h : InRequest r s) : s.draw = false := by
  unfold State.draw
  cases hdraws : s.draws with
  | nil => rfl
  | cons b ds => exact h.noFailure b (hdraws ▸ List.mem_cons_self ..)

theorem InRequest.readRange (h : InRequest r s) {sp : Space} (hsp : sp ≠ .outBuf) (a n : Nat) :
    s.readRange sp a n = r.readRange sp a n :=
  readRange_congr fun i _ => h.bytes sp hsp (a + i)

theorem InRequest.payloadIn (h : InRequest r s) : s.payloadIn = r.payloadIn := by
  rw [State.payloadIn, h.cryptlen, h.readRange (by decide)]
  rfl

theorem InRequest.range (h : InRequest r s) (src : AbsSrc) : s.range src = s.work.range r src := by
  have hframe := h.frame
  cases src with
  | aad => rw [State.range, h.aadeff, h.readRange (by decide)]; rfl
  | pin => exact h.payloadIn
  | pout => rfl
  | b0 => rw [State.range, hframe]; rfl
  | a0 => rw [State.range, hframe, h.a0len]; rfl
  | lenblk => rw [State.range, hframe]; rfl
  | digs => rfl
  | iv8 => exact h.readRange (by decide) 0 8

theorem InRequest.maskBlock (h : InRequest r s) (blk : MaskBlk) : s.maskBlock blk = r.maskBlock blk := by
  cases blk <;> (rw [State.maskBlock, h.frame]; rfl)

theorem InRequest.ciphered (h : InRequest r s) : s.ciphered = s.ce.apply r.payloadIn := by
  rw [State.ciphered, h.payloadIn]
  rfl

theorem InRequest.fusedSide (h : InRequest r s) (side : Side) :
    s.fusedSide side = fusedBytes side r.payloadIn (s.ce.apply r.payloadIn) := by
  cases side with
  | input => exact h.payloadIn
  | output => exact h.ciphered

theorem payloadIn_length (s : State) : s.payloadIn.length = s.cryptlen.toNat := readRange_length ..

theorem payloadOut_length (s : State) : s.payloadOut.length = s.cryptlen.toNat := readRange_length ..

theorem CipherEngine.apply_length (ce : CipherEngine) (x : List Byte) : (ce.apply x).length = x.length :=
  blockCipherApply_length ..

/-- Writing a whole payload output changes that work register alone. -/
theorem work_writeOut {y : List Byte} (hy : y.length = s.cryptlen.toNat) (hfit : s.cryptlen.toNat ≤ s.caps.bufCap) :
    (s.writeRange .outBuf 0 y).work = s.work.produce y := by
  have hout : (s.writeRange .outBuf 0 y).payloadOut = y :=
    readRange_writeRange_same hy ((Nat.zero_add _).trans_le hfit)
  rw [State.work, hout]
  rfl

/-- The digest of a hash is read back whole from `DIGS` (R222). -/
theorem work_extract_digs : (s.extract .digs).work = { s.work with digs := s.digest } := by
  have hlen : s.digest.length ≤ 32 := macDigest_length_le ..
  have hdigs : (s.extract .digs).range .digs = s.digest := by
    show (toReg 32 s.digest).toList.take (BitVec.ofNat 6 s.digest.length).toNat = _
    rw [toReg_toList_of_le hlen, BitVec.toNat_ofNat, Nat.mod_eq_of_lt (by omega), List.take_left]
  rw [State.work, hdigs]
  rfl

end

/-! The operation steps whose preconditions hold and whose draw is no failure. -/

section

variable {s : State}

theorem require_call {ready : Bool} (h : ready = true) (hdraw : s.draw = false) (k : State → State) :
    s.require ready (fun s => s.primitiveCall k) = k s.drawn := by
  rw [require_of_true _ h, primitiveCall_of_false _ hdraw]

theorem require_output_call {ready : Bool} (h : ready = true) (hdraw : s.draw = false) (k : State → State) :
    s.require ready (fun s => s.startOutput.primitiveCall k) = k s.startOutput.drawn := by
  rw [require_of_true _ h, primitiveCall_of_false _ (startOutput_draw s |>.trans hdraw)]

theorem exec_keyldMeXcbc {k1 k2 k3 : Block} (hmode : s.ctx.authMode = .xcbc) (hmat : s.ctx.authMat = .xcbc k1 k2 k3) :
    exec .keyldMeXcbc s = .next (s.loadMacKey .xcbc (k1.toList ++ k2.toList ++ k3.toList)).advance := by
  simp only [exec, execKeyldMeXcbc, hmat, hmode, decide_true, require_of_true]

theorem exec_keyldMeGhash (hran : s.hasRun .hdrv = true) :
    exec .keyldMeGhash s = .next (s.loadMacKey .ghash s.frame.h.toList).advance := by
  simp only [exec, execKeyldMeGhash]
  rw [require_of_true _ hran]

theorem exec_stldMeIpad {ipad opad : MacState} {alg : MacAlg} (hmat : s.ctx.authMat = .hmac ipad opad)
    (halg : hashAlg s.ctx.authMode = some alg) : exec .stldMeIpad s = .next (s.loadHash alg ipad).advance := by
  simp only [exec, execStldMeIpad, hmat, halg]

theorem exec_stldMeOpad {ipad opad : MacState} {alg : MacAlg} (hmat : s.ctx.authMat = .hmac ipad opad)
    (halg : hashAlg s.ctx.authMode = some alg) : exec .stldMeOpad s = .next (s.loadHash alg opad).advance := by
  simp only [exec, execStldMeOpad, hmat, halg]

theorem exec_stldMeZero (halg : zeroStateAlg s.me.alg = true) :
    exec .stldMeZero s = .next (State.advance { s with me := { s.me with st := emptyMac } }) := by
  simp only [exec, execStldMeZero]
  rw [require_of_true _ halg]
  rfl

theorem exec_habs {src : AbsSrc} {pad : Nat} (hfin : s.me.st.fin = false) (hdata : s.range src ++ zeros pad ≠ [])
    (hdraw : s.draw = false) :
    exec (.habs src pad) s = .next (s.drawn.absorb (s.range src ++ zeros pad)).advance := by
  simp only [exec, execHabs]
  rw [require_call (by rw [hfin, decide_eq_true hdata]; rfl) hdraw]

theorem exec_capp (hpos : 0 < s.cryptlen.toNat) (hmode : s.ce.mode = .cbc ∨ s.ce.mode = .ctr) (hdraw : s.draw = false) :
    exec .capp s = .next (s.startOutput.drawn.writeRange .outBuf 0 s.startOutput.drawn.ciphered).advance := by
  simp only [exec, execCapp]
  rw [require_output_call (by simpa [hpos] using hmode) hdraw]

theorem exec_fuse {side : Side} {pad : Nat} (hpos : 0 < s.cryptlen.toNat) (hmode : s.ce.mode ≠ .ecb)
    (hfin : s.me.st.fin = false) (hdraw : s.draw = false) :
    exec (.fuse side pad) s
      = .next ((s.startOutput.drawn.writeRange .outBuf 0 s.startOutput.drawn.ciphered).absorb
          (s.startOutput.drawn.fusedSide side ++ zeros pad)).advance := by
  simp only [exec, execFuse]
  rw [require_output_call (by simp [hpos, hmode, hfin]) hdraw]

theorem exec_copy (hpos : 0 < s.cryptlen.toNat) :
    exec .copy s = .next (s.startOutput.writeRange .outBuf 0 s.payloadIn).advance := by
  simp only [exec, execCopy]
  rw [require_of_true _ (decide_eq_true hpos)]

theorem exec_hdrv (hmode : s.ce.mode = .ecb) (hdir : s.ce.dir = .encrypt) (hfam : s.ce.fam = .aes) (hdraw : s.draw = false) :
    exec .hdrv s = .next (State.advance
      { s.drawn with frame := { s.frame with h := aesEnc s.ce.keyBytes (zeroBytes 16) } }) := by
  simp only [exec, execHdrv]
  rw [require_call (by simp [hmode, hdir, hfam]) hdraw]
  rfl

theorem exec_hfin (halg : finalizes s.me.alg = true) (hfin : s.me.st.fin = false) (hdraw : s.draw = false) :
    exec .hfin s = .next (State.advance { s.drawn with me := { s.me with st := macFinalize s.me.st } }) := by
  simp only [exec, execHfin]
  rw [require_call (by rw [halg, hfin]; rfl) hdraw]
  rfl

theorem exec_hext {dst : ExtDst} (hok : macDigestOk s.me.alg s.me.st = true) (hdst : extractOk dst s.me.alg = true) :
    exec (.hext dst) s = .next (s.extract dst).advance := by
  simp only [exec, execHext]
  rw [require_of_true _ (by rw [hok, hdst]; rfl)]

theorem extractOk_digs {alg : MacAlg} (h : alg = .sha1 ∨ alg = .sha256) : extractOk .digs alg = true := by
  obtain rfl | rfl := h <;> rfl

theorem exec_ctag {blk : MaskBlk} (hran : s.hasRun (.hext .tags) = true) (hfam : s.ctx.family = .aes)
    (hdraw : s.draw = false) :
    exec (.ctag blk) s = .next (s.drawn.maskTag (aesEnc s.ctx.keyBytes (s.maskBlock blk))).advance := by
  simp only [exec, execCtag]
  rw [require_call (by simp [hran, hfam]) hdraw]
  rfl

end

section

variable {r s : State}

/-- An operation whose rule applies goes on as the rule says: one case per rule. -/
theorem exec_of_op {pre : List Instr} {i : Instr} {w : Work} (h : InRequest r s) (hran : ∀ j ∈ pre, s.hasRun j = true)
    (hfit : r.cryptlen.toNat ≤ r.caps.bufCap) (hop : Op r pre i s.work w) :
    ∃ u, exec i s = .next u.advance ∧ SameControl s u ∧ InRequest r u ∧ u.work = w := by
  have registers := h.with_registers
  have hcrypt : s.cryptlen.toNat = r.cryptlen.toNat := by rw [h.cryptlen]
  have hfit' : s.cryptlen.toNat ≤ s.caps.bufCap := by rw [h.cryptlen, h.caps]; exact hfit
  have hout := h.startOutput.drawn
  have hlen : (s.ce.apply r.payloadIn).length = s.cryptlen.toNat := by
    rw [CipherEngine.apply_length, payloadIn_length, hcrypt]
  cases hop with
  | keyldCe m d =>
    refine ⟨_, rfl, ⟨rfl, rfl, rfl, rfl, rfl, rfl, rfl, rfl⟩, registers _ _ _ _ _ _ _ _, ?_⟩
    rw [← h.ctx]
    rfl
  | keyldMeXcbc _ hmode hmat =>
    rw [← h.ctx] at hmode hmat
    exact ⟨_, exec_keyldMeXcbc hmode hmat, ⟨rfl, rfl, rfl, rfl, rfl, rfl, rfl, rfl⟩, registers _ _ _ _ _ _ _ _, rfl⟩
  | keyldMeCbcmac =>
    refine ⟨_, rfl, ⟨rfl, rfl, rfl, rfl, rfl, rfl, rfl, rfl⟩, registers _ _ _ _ _ _ _ _, ?_⟩
    rw [← h.ctx]
    rfl
  | keyldMeGhash _ hdrv =>
    exact ⟨_, exec_keyldMeGhash (hran _ hdrv), ⟨rfl, rfl, rfl, rfl, rfl, rfl, rfl, rfl⟩, registers _ _ _ _ _ _ _ _, rfl⟩
  | stldCeCiv =>
    refine ⟨_, rfl, ⟨rfl, rfl, rfl, rfl, rfl, rfl, rfl, rfl⟩, registers _ _ _ _ _ _ _ _, ?_⟩
    rw [h.frame]
    rfl
  | stldCeCtr0p1 =>
    refine ⟨_, rfl, ⟨rfl, rfl, rfl, rfl, rfl, rfl, rfl, rfl⟩, registers _ _ _ _ _ _ _ _, ?_⟩
    rw [h.frame]
    rfl
  | stldCeJ2 =>
    refine ⟨_, rfl, ⟨rfl, rfl, rfl, rfl, rfl, rfl, rfl, rfl⟩, registers _ _ _ _ _ _ _ _, ?_⟩
    rw [h.frame]
    rfl
  | stldMeIpad _ hmat halg =>
    rw [← h.ctx] at hmat halg
    exact ⟨_, exec_stldMeIpad hmat halg, ⟨rfl, rfl, rfl, rfl, rfl, rfl, rfl, rfl⟩, registers _ _ _ _ _ _ _ _, rfl⟩
  | stldMeOpad _ hmat halg =>
    rw [← h.ctx] at hmat halg
    exact ⟨_, exec_stldMeOpad hmat halg, ⟨rfl, rfl, rfl, rfl, rfl, rfl, rfl, rfl⟩, registers _ _ _ _ _ _ _ _, rfl⟩
  | stldMeZero _ halg =>
    exact ⟨_, exec_stldMeZero halg, ⟨rfl, rfl, rfl, rfl, rfl, rfl, rfl, rfl⟩, registers _ _ _ _ _ _ _ _, rfl⟩
  | habs src pad _ _ hfin hdata =>
    rw [← h.range] at hdata ⊢
    exact ⟨_, exec_habs hfin hdata h.draw, ⟨rfl, rfl, rfl, rfl, rfl, rfl, rfl, rfl⟩, h.drawn.absorb _, rfl⟩
  | capp _ hpos hmode =>
    refine ⟨_, exec_capp (hpos.trans_eq hcrypt.symm) hmode h.draw, ⟨rfl, rfl, rfl, rfl, rfl, rfl, rfl, rfl⟩,
      hout.writeOut _ _, ?_⟩
    rw [hout.ciphered]
    exact work_writeOut (s := s.startOutput.drawn) hlen hfit'
  | fuse side pad _ _ hpos hmode hfin =>
    refine ⟨_, exec_fuse (hpos.trans_eq hcrypt.symm) hmode hfin h.draw, ⟨rfl, rfl, rfl, rfl, rfl, rfl, rfl, rfl⟩,
      (hout.writeOut _ _).absorb _, ?_⟩
    rw [hout.ciphered, hout.fusedSide]
    exact congrArg (Work.absorb · _) (work_writeOut (s := s.startOutput.drawn) hlen hfit')
  | copy _ hpos =>
    refine ⟨_, exec_copy (hpos.trans_eq hcrypt.symm), ⟨rfl, rfl, rfl, rfl, rfl, rfl, rfl, rfl⟩,
      h.startOutput.writeOut _ _, ?_⟩
    rw [work_writeOut (s := s.startOutput) (payloadIn_length s) hfit', h.payloadIn]
    rfl
  | hdrv _ hmode hdir hfam =>
    exact ⟨_, exec_hdrv hmode hdir hfam h.draw, ⟨rfl, rfl, rfl, rfl, rfl, rfl, rfl, rfl⟩,
      h.drawn.with_registers _ _ _ _ _ _ _ _, rfl⟩
  | hfin _ halg hfin =>
    exact ⟨_, exec_hfin halg hfin h.draw, ⟨rfl, rfl, rfl, rfl, rfl, rfl, rfl, rfl⟩,
      h.drawn.with_registers _ _ _ _ _ _ _ _, rfl⟩
  | hextTags _ hok =>
    exact ⟨_, exec_hext hok rfl, ⟨rfl, rfl, rfl, rfl, rfl, rfl, rfl, rfl⟩, registers _ _ _ _ _ _ _ _, rfl⟩
  | hextDigs _ hok halg =>
    exact ⟨_, exec_hext hok (extractOk_digs halg), ⟨rfl, rfl, rfl, rfl, rfl, rfl, rfl, rfl⟩, registers _ _ _ _ _ _ _ _,
      work_extract_digs⟩
  | ctag blk _ htags hfam =>
    rw [← h.ctx] at hfam
    refine ⟨_, exec_ctag (hran _ htags) hfam h.draw, ⟨rfl, rfl, rfl, rfl, rfl, rfl, rfl, rfl⟩,
      h.drawn.with_registers _ _ _ _ _ _ _ _, ?_⟩
    rw [← h.ctx, ← h.maskBlock]
    rfl

end

end Sys2Proof.Machine

/-! A plan in execution (`spec/40_host_commands.md` R108): the operations that ran, the ones left, and runs of operations by
the rules of `Op`. -/

namespace Sys2Proof.Machine

open Sys2Proof Sys2Proof.Safety

/-- The block executes the plan `pre ++ post` and stands at the first operation of `post`, with the sequencer to move. -/
structure AtPlan (pre post : List Instr) (s : State) : Prop where
  plan : s.plan = planWords (pre ++ post)
  pp : s.pp.toNat = pre.length
  plen : s.plen.toNat = (pre ++ post).length
  short : (pre ++ post).length ≤ 13
  busy : s.status.busy = true
  phase : s.phase = .exec
  agenda : s.agenda = []

theorem planWords_toList {l : List Instr} (h : l.length ≤ 16) :
    (planWords l).toList = l.map encode ++ List.replicate (16 - l.length) 0 := by
  rw [planWords, fitTo_toList, List.take_append, List.length_map, List.take_of_length_le (by rwa [List.length_map]),
    List.take_replicate, Nat.min_eq_left (by omega)]

section

variable {pre post : List Instr} {i : Instr} {s u : State}

/-- The operations before `PP` have run (log 12). -/
theorem AtPlan.hasRun (h : AtPlan pre post s) (hi : i ∈ pre) : s.hasRun i = true := by
  have hshort := h.short
  have hran : s.executed = pre.map encode := by
    rw [State.executed, h.plan, h.pp, planWords_toList (by omega), List.map_append, List.append_assoc,
      List.take_left' (List.length_map _)]
  rw [State.hasRun, hran, List.contains_iff_mem]
  exact List.mem_map_of_mem hi

/-- `PLAN[PP]` is the next operation's word (R108). -/
theorem AtPlan.step_eq (h : AtPlan pre (i :: post) s) (hi : i.wellFormed = true ∧ i.format = .opw) : step s = exec i s := by
  have hshort := h.short
  obtain ⟨hwf, hformat⟩ := hi
  have hword : s.planWord s.pp.toNat = encode i := by
    rw [State.planWord, h.plan, h.pp, planWords_toList (by omega), List.getD_eq_getElem?_getD]
    simp
  have hdec : decode .opw (s.planWord s.pp.toNat) = .ok i := by
    rw [hword, ← hformat]
    exact decodeEncode i hwf
  rw [stepRunsPlanWord s i [] (.inr ⟨h.agenda, rfl⟩) h.busy h.phase hdec, ← h.agenda]

/-- An operation that is not the last one moves on to the next. -/
theorem AtPlan.advance_eq (h : AtPlan pre (i :: post) s) (hpost : post ≠ []) (hu : SameControl s u) :
    u.advance = { u with pp := u.pp + 1 } ∧ AtPlan (pre ++ [i]) post { u with pp := u.pp + 1 } := by
  have hpos := List.length_pos_of_ne_nil hpost
  have hlen := h.plen
  have hshort := h.short
  have hpp := h.pp
  have happend : pre ++ [i] ++ post = pre ++ i :: post := by simp
  simp only [List.length_append, List.length_cons] at hlen hshort
  obtain ⟨hlast, -⟩ | ⟨-, hadv⟩ := advance_cases u
  · rw [hu.pp, hu.plen] at hlast
    bv_omega
  · refine ⟨hadv, ?_, ?_, ?_, ?_, ?_, ?_, ?_⟩
    · rw [happend]
      exact hu.plan.trans h.plan
    · show (u.pp + 1).toNat = _
      rw [hu.pp, List.length_append, List.length_singleton]
      bv_omega
    · rw [happend]
      exact (congrArg BitVec.toNat hu.plen).trans h.plen
    · rw [happend]
      exact h.short
    · exact (congrArg Status.busy hu.status).trans h.busy
    · exact hu.phase.trans h.phase
    · exact hu.agenda.trans h.agenda

/-- The last operation completes the request. -/
theorem AtPlan.advance_last (h : AtPlan pre [i] s) (hu : SameControl s u) :
    u.advance = State.complete { u with pp := u.pp + 1 } := by
  have hlen := h.plen
  have hshort := h.short
  have hpp := h.pp
  simp only [List.length_append, List.length_singleton] at hlen hshort
  obtain ⟨-, hadv⟩ | ⟨hmore, -⟩ := advance_cases u
  · exact hadv
  · rw [hu.pp, hu.plen] at hmore
    exact absurd (by bv_omega) hmore

end

/-- A run of operations by the rules of `Op`, after the operations `pre`. -/
inductive Runs (r : State) : List Instr → List Instr → Work → Work → Prop
  | nil (pre : List Instr) (w : Work) : Runs r pre [] w w
  | cons {pre l : List Instr} {i : Instr} {w w1 w2 : Work} (hop : Op r pre i w w1) (hruns : Runs r (pre ++ [i]) l w1 w2) :
    Runs r pre (i :: l) w w2

section

variable {r : State} {pre l l' : List Instr} {i : Instr} {w w1 w2 : Work}

theorem Runs.one (h : Op r pre i w w1) : Runs r pre [i] w w1 := .cons h (.nil _ _)

theorem Runs.append (h : Runs r pre l w w1) (h' : Runs r (pre ++ l) l' w1 w2) : Runs r pre (l ++ l') w w2 := by
  induction h with
  | nil pre w => simpa using h'
  | cons hop _ ih => exact .cons hop (ih (by simpa using h'))

/-- A run on the work registers is a run of the machine, up to the operations left. -/
theorem turns_of_runs (hfit : r.cryptlen.toNat ≤ r.caps.bufCap) (h : Runs r pre l w w1) {post : List Instr}
    (hpost : post ≠ []) {s : State} (hat : AtPlan pre (l ++ post) s) (hin : InRequest r s) (hw : s.work = w) :
    ∃ t, turns l.length s = .next t ∧ AtPlan (pre ++ l) post t ∧ InRequest r t ∧ t.work = w1 := by
  induction h generalizing s with
  | nil pre w => exact ⟨s, rfl, by simpa using hat, hin, hw⟩
  | @cons pre l i w w1 w2 hop _ ih =>
    subst hw
    obtain ⟨u, hexec, hsame, hin', hwork⟩ := exec_of_op hin (fun _ hj => hat.hasRun hj) hfit hop
    obtain ⟨hadv, hat'⟩ := hat.advance_eq (by simp [hpost]) hsame
    obtain ⟨t, hturns, hat'', hin'', hwork'⟩ := ih hat' (hin'.with_pp _) hwork
    have hstep : step s = .next { u with pp := u.pp + 1 } := by
      rw [hat.step_eq hop.legal, hexec, hadv]
    exact ⟨t, (turns_succ_of_step hstep l.length).trans hturns, by simpa using hat'', hin'', hwork'⟩

end

end Sys2Proof.Machine

/-! What a plan of HMAC or XCBC computes (`spec/44_plan_generation.md` R187 to R190, `spec/45_plan_ops.md` R226): the
segments that plans share, then each plan's output and tag, which are those of the reference formulas. -/

namespace Sys2Proof.Machine

open Sys2Proof Sys2Proof.Safety

/-- `r` is a state in which a plan begins: a legal context, the frame that the Frame Builder made of the IV block, and
associated data whenever the wrapper is RFC 4543's (R146). -/
structure PlanStart (r : State) (iv : List Byte) : Prop where
  legal : CtxLegal r.ctx
  frame : frameBuild r.ctx iv r.cryptlen.toNat r.aadeff.toNat = .ok (r.frame, r.a0len)
  iv8 : r.range .iv8 = iv.take 8
  aad : r.ctx.wrap = .rfc4543 → 0 < r.aadeff.toNat

/-- The tag of the request, before truncation: plaintext and ciphertext are the input and the output of the cipher, in the
order the direction gives. -/
def requestTag (r : State) (d : Dir) (iv : List Byte) : List Byte :=
  let y := cipherRef r.ctx d iv r.payloadIn
  tagRef r.ctx iv (r.range .aad) (fusedBytes (plainSide d) r.payloadIn y) (fusedBytes (cipherSide d) r.payloadIn y)

/-- The operations leave the reference's output in `OUTBUF` and the reference's tag, as far as it is used, in `TAGS`. -/
def Computes (r : State) (d : Dir) (iv : List Byte) (body : List Instr) : Prop :=
  ∃ w, Runs r [] body r.work w ∧ w.out = cipherRef r.ctx d iv r.payloadIn
    ∧ w.tags.toList.take r.ctx.tagLen.toNat = (requestTag r d iv).take r.ctx.tagLen.toNat

section

variable {r : State} {pre : List Instr} {w : Work}

/-! Optional operations on ranges that may be empty (R205). -/

theorem emitIf_eq_of_pos {n : Nat} (h : 0 < n) (l : List Instr) : emitIf (decide (0 < n)) l = l := by
  rw [decide_eq_true h]
  rfl

theorem emitIf_zero (l : List Instr) : emitIf (decide (0 < 0)) l = [] := rfl

theorem range_aad_length (r : State) : (r.range .aad).length = r.aadeff.toNat := readRange_length ..

theorem Work.absorb_nil (w : Work) : w.absorb [] = w := by
  simp [Work.absorb, macAbsorb]

/-- Absorbing a range, or nothing where it is empty. -/
theorem runs_habs_if {src : AbsSrc} {pad n : Nat} (hfin : w.me.st.fin = false) (hlen : (w.range r src).length = n)
    (hpad : pad < 16) (hzero : n = 0 → pad = 0) :
    Runs r pre (emitIf (decide (0 < n)) [.habs src pad]) w (w.absorb (w.range r src ++ zeros pad)) := by
  obtain rfl | hpos := Nat.eq_zero_or_pos n
  · rw [List.eq_nil_of_length_eq_zero hlen, hzero rfl]
    exact (Work.absorb_nil w).symm ▸ .nil pre w
  · rw [emitIf_eq_of_pos hpos]
    refine .one (.habs src pad w hpad hfin fun hnil => ?_)
    rw [(List.append_eq_nil_iff.mp hnil).1] at hlen
    exact absurd hlen (by simpa using hpos.ne)

/-- An empty payload ciphers to the empty output, which is what stands there already. -/
theorem produce_of_empty (hout : w.out.length = r.cryptlen.toNat) (h : r.cryptlen.toNat = 0) (ce : CipherEngine) :
    r.payloadIn = [] ∧ ce.apply r.payloadIn = [] ∧ w.produce [] = w := by
  have hin : r.payloadIn = [] := List.eq_nil_of_length_eq_zero ((payloadIn_length r).trans h)
  refine ⟨hin, List.eq_nil_of_length_eq_zero ?_, ?_⟩
  · rw [CipherEngine.apply_length, hin, List.length_nil]
  · rw [Work.produce, ← List.eq_nil_of_length_eq_zero (hout.trans h)]

theorem runs_capp_if (hout : w.out.length = r.cryptlen.toNat) (hmode : w.ce.mode = .cbc ∨ w.ce.mode = .ctr) :
    Runs r pre (emitIf (decide (0 < r.cryptlen.toNat)) [.capp]) w (w.produce (w.ce.apply r.payloadIn)) := by
  obtain hzero | hpos := Nat.eq_zero_or_pos r.cryptlen.toNat
  · obtain ⟨-, happly, hproduce⟩ := produce_of_empty hout hzero w.ce
    rw [hzero, emitIf_zero, happly, hproduce]
    exact .nil pre w
  · rw [emitIf_eq_of_pos hpos]
    exact .one (.capp w hpos hmode)

theorem runs_fuse_if {side : Side} {pad : Nat} (hout : w.out.length = r.cryptlen.toNat) (hmode : w.ce.mode ≠ .ecb)
    (hfin : w.me.st.fin = false) (hpad : pad < 16) (hzero : r.cryptlen.toNat = 0 → pad = 0) :
    Runs r pre (emitIf (decide (0 < r.cryptlen.toNat)) [.fuse side pad]) w
      ((w.produce (w.ce.apply r.payloadIn)).absorb (fusedBytes side r.payloadIn (w.ce.apply r.payloadIn) ++ zeros pad)) := by
  obtain hempty | hpos := Nat.eq_zero_or_pos r.cryptlen.toNat
  · obtain ⟨hin, happly, hproduce⟩ := produce_of_empty hout hempty w.ce
    have hbytes : fusedBytes side [] [] ++ zeros 0 = [] := by cases side <;> rfl
    rw [hzero hempty, happly, hin, hbytes, hproduce, Work.absorb_nil, hempty, emitIf_zero]
    exact .nil pre w
  · rw [emitIf_eq_of_pos hpos]
    exact .one (.fuse side pad w hpad hpos hmode hfin)

/-! The cipher engine loaded (R187, R211, R213). -/

/-- The cipher engine loaded from the context of the request. -/
def State.engine (r : State) (m : CeMode) (d : Dir) (iv : Block) : CipherEngine :=
  { fam := r.ctx.family, key := toReg 32 r.ctx.keyBytes, keyLen := r.ctx.encKeyLen, mode := m, dir := d, iv := iv }

theorem engine_keyBytes (hlegal : CtxLegal r.ctx) (m : CeMode) (d : Dir) (iv : Block) :
    (r.engine m d iv).keyBytes = r.ctx.keyBytes := by
  obtain ⟨-, -, hkeyLen, -⟩ := hlegal
  have hlen : r.ctx.encKeyLen.toNat ≤ 32 := encKeyLen_le_32 hkeyLen
  have hbytes : r.ctx.keyBytes.length = r.ctx.encKeyLen.toNat := by
    simp [Ctx.keyBytes, hlen]
  show (toReg 32 r.ctx.keyBytes).toList.take r.ctx.encKeyLen.toNat = _
  rw [toReg_toList_of_le (by omega), ← hbytes, List.take_left]

theorem engine_apply (hlegal : CtxLegal r.ctx) (m : CeMode) (d : Dir) (iv : Block) (x : List Byte) :
    (r.engine m d iv).apply x = blockCipherApply r.ctx.family r.ctx.keyBytes m d iv x := by
  rw [CipherEngine.apply, engine_keyBytes hlegal]
  rfl

theorem runs_cipherLoad (d : Dir) :
    Runs r pre (cipherLoad r.ctx d) w
      { w with ce := r.engine (if r.ctx.cipherMode = .cbc then .cbc else .ctr) d r.frame.civ } :=
  .cons (.keyldCe _ d w) (.one (.stldCeCiv _))

/-! The MAC of HMAC and XCBC (R187, R212, R214, R220 to R222). -/

/-- The MAC engine as `MacLoad` leaves it. -/
def macStart (c : Ctx) : MacEngine :=
  match c.authMat, hashAlg c.authMode with
  | .hmac ipad _, some alg => { alg := alg, key := [], st := ipad }
  | .xcbc k1 k2 k3, _ => { alg := .xcbc, key := k1.toList ++ k2.toList ++ k3.toList, st := emptyMac }
  | _, _ => zeroMe

/-- A context whose MAC is HMAC. -/
structure HmacCtx (c : Ctx) (ipad opad : MacState) (alg : MacAlg) : Prop where
  mode : isHmac c.authMode = true
  mat : c.authMat = .hmac ipad opad
  algOfMode : hashAlg c.authMode = some alg
  hash : alg = .sha1 ∨ alg = .sha256
  ipadOpen : ipad.fin = false
  opadOpen : opad.fin = false

/-- A context whose MAC is XCBC. -/
structure XcbcCtx (c : Ctx) (k1 k2 k3 : Block) : Prop where
  mode : c.authMode = .xcbc
  mat : c.authMat = .xcbc k1 k2 k3

/-- A legal context of CBC or CTR authenticates by HMAC or by XCBC (R84, R135). -/
theorem separateMac_cases {c : Ctx} (hlegal : CtxLegal c) (hmode : c.cipherMode = .cbc ∨ c.cipherMode = .ctr) :
    (∃ ipad opad alg, HmacCtx c ipad opad alg) ∨ ∃ k1 k2 k3, XcbcCtx c k1 k2 k3 := by
  obtain ⟨hcombo, -, -, -, hmat⟩ := hlegal
  have hauth : c.authMode ≠ .none := by
    obtain hmode | hmode := hmode <;> rw [hmode, legalCombo_iff] at hcombo <;> exact hcombo.1
  cases hm : c.authMat with
  | none =>
    rw [hm] at hmat
    exact absurd hmat hauth
  | hmac ipad opad =>
    rw [hm] at hmat
    obtain ⟨ha | ha, hipad, hopad, -⟩ := hmat
    · exact .inl ⟨ipad, opad, .sha1, by rw [ha]; rfl, hm, by rw [ha]; rfl, .inl rfl, hipad, hopad⟩
    · exact .inl ⟨ipad, opad, .sha256, by rw [ha]; rfl, hm, by rw [ha]; rfl, .inr rfl, hipad, hopad⟩
  | xcbc k1 k2 k3 =>
    rw [hm] at hmat
    exact .inr ⟨k1, k2, k3, hmat, hm⟩

theorem HmacCtx.macStart {c : Ctx} {ipad opad : MacState} {alg : MacAlg} (h : HmacCtx c ipad opad alg) :
    macStart c = { alg := alg, key := [], st := ipad } := by
  simp only [Machine.macStart, h.mat, h.algOfMode]

theorem HmacCtx.authRef {c : Ctx} {ipad opad : MacState} {alg : MacAlg} (h : HmacCtx c ipad opad alg) (m : List Byte) :
    authRef c m = hashDigest alg (opad.msg ++ hashDigest alg (ipad.msg ++ m)) := by
  simp only [Safety.authRef, h.mat, h.algOfMode]

theorem XcbcCtx.macStart {c : Ctx} {k1 k2 k3 : Block} (h : XcbcCtx c k1 k2 k3) :
    macStart c = { alg := .xcbc, key := k1.toList ++ k2.toList ++ k3.toList, st := emptyMac } := by
  simp only [Machine.macStart, h.mat]

theorem XcbcCtx.authRef {c : Ctx} {k1 k2 k3 : Block} (h : XcbcCtx c k1 k2 k3) (m : List Byte) :
    authRef c m = (xcbcMac k1.toList k2.toList k3.toList m).toList := by
  simp only [Safety.authRef, h.mat]

theorem macStart_fin {c : Ctx} (hlegal : CtxLegal c) (hmode : c.cipherMode = .cbc ∨ c.cipherMode = .ctr) :
    (macStart c).st.fin = false := by
  obtain ⟨ipad, opad, alg, h⟩ | ⟨k1, k2, k3, h⟩ := separateMac_cases hlegal hmode
  · rw [h.macStart]
    exact h.ipadOpen
  · rw [h.macStart]
    rfl

theorem runs_macLoad (hlegal : CtxLegal r.ctx) (hmode : r.ctx.cipherMode = .cbc ∨ r.ctx.cipherMode = .ctr) :
    Runs r pre (macLoad r.ctx) w { w with me := macStart r.ctx } := by
  obtain ⟨ipad, opad, alg, h⟩ | ⟨k1, k2, k3, h⟩ := separateMac_cases hlegal hmode
  · rw [macLoad, h.mode, h.macStart]
    exact .one (.stldMeIpad w h.mat h.algOfMode)
  · rw [macLoad, h.mode, h.macStart]
    exact .cons (.keyldMeXcbc w h.mode h.mat) (.one (.stldMeZero _ rfl))

/-- The digest of a hash is the hash of the bytes absorbed (R262). -/
theorem macDigest_hash {alg : MacAlg} (h : alg = .sha1 ∨ alg = .sha256) (key : List Byte) (st : MacState) :
    macDigest alg key st = hashDigest alg st.msg := by
  obtain rfl | rfl := h <;> rfl

theorem hashDigest_ne_nil {alg : MacAlg} (h : alg = .sha1 ∨ alg = .sha256) (m : List Byte) : hashDigest alg m ≠ [] := by
  refine List.ne_nil_of_length_pos ?_
  rw [hashDigest, macDigest_length]
  obtain rfl | rfl := h <;> decide

/-- HMAC's second half: the inner digest through the outer hash (R129). -/
theorem runs_hmacFinish {ipad opad : MacState} {alg : MacAlg} (h : HmacCtx r.ctx ipad opad alg) (m : List Byte)
    (hme : w.me = { alg := alg, key := [], st := macAbsorb ipad m }) :
    ∃ me digs, Runs r pre [.hfin, .hext .digs, .stldMeOpad, .habs .digs 0, .hfin, .hext .tags] w
      { w with me := me, digs := digs, tags := toReg 32 (authRef r.ctx m) } := by
  obtain ⟨ce, me, hash, tags, digs, out⟩ := w
  dsimp only at hme
  subst hme
  have hfinalizes : finalizes alg = true := by obtain rfl | rfl := h.hash <;> rfl
  have hok (st : MacState) : macDigestOk alg (macFinalize st) = true := by obtain rfl | rfl := h.hash <;> rfl
  have hdata (st : MacState) : macDigest alg [] st ++ zeros 0 ≠ [] := by
    rw [macDigest_hash h.hash]
    simpa [zeros] using hashDigest_ne_nil h.hash st.msg
  have htag : macDigest alg [] (macFinalize (macAbsorb opad (macDigest alg [] (macFinalize (macAbsorb ipad m)) ++ zeros 0)))
      = authRef r.ctx m := by
    rw [h.authRef, macDigest_hash h.hash, macDigest_hash h.hash, zeros, List.replicate_zero, List.append_nil]
    rfl
  rw [← htag]
  exact ⟨_, _, .cons (.hfin _ hfinalizes h.ipadOpen) <| .cons (.hextDigs _ (hok _) h.hash) <|
    .cons (.stldMeOpad _ h.mat h.algOfMode) <| .cons (.habs .digs 0 _ (by norm_num) h.opadOpen (hdata _)) <|
    .cons (.hfin _ hfinalizes h.opadOpen) <| .one (.hextTags _ (hok _))⟩

/-- XCBC's key is read back as the three subkeys it was loaded from (R212, R261). -/
theorem macDigest_xcbc (k1 k2 k3 : Block) (st : MacState) :
    macDigest .xcbc (k1.toList ++ k2.toList ++ k3.toList) st = (xcbcMac k1.toList k2.toList k3.toList st.msg).toList := by
  have hdrop : k1.toList.drop 32 = [] := List.drop_of_length_le (by simp)
  have htake : k3.toList.take 16 = k3.toList := List.take_of_length_le (by simp)
  simp [macDigest, slice, List.drop_append, hdrop, htake]

theorem runs_xcbcFinish {k1 k2 k3 : Block} (h : XcbcCtx r.ctx k1 k2 k3) (m : List Byte)
    (hme : w.me = { alg := .xcbc, key := k1.toList ++ k2.toList ++ k3.toList, st := macAbsorb emptyMac m }) :
    ∃ me, Runs r pre [.hfin, .hext .tags] w { w with me := me, tags := toReg 32 (authRef r.ctx m) } := by
  obtain ⟨ce, me, hash, tags, digs, out⟩ := w
  dsimp only at hme
  subst hme
  have htag : macDigest .xcbc (k1.toList ++ k2.toList ++ k3.toList) (macFinalize (macAbsorb emptyMac m))
      = authRef r.ctx m := by
    rw [h.authRef, macDigest_xcbc]
    rfl
  rw [← htag]
  exact ⟨_, .cons (.hfin _ rfl rfl) (.one (.hextTags _ rfl))⟩

/-- `MacFinish` after the message `m` (R187): the tag of the reference. -/
theorem runs_macFinish (hlegal : CtxLegal r.ctx) (hmode : r.ctx.cipherMode = .cbc ∨ r.ctx.cipherMode = .ctr) (m : List Byte)
    (hme : w.me = { macStart r.ctx with st := macAbsorb (macStart r.ctx).st m }) :
    ∃ me digs, Runs r pre (macFinish r.ctx) w { w with me := me, digs := digs, tags := toReg 32 (authRef r.ctx m) } := by
  obtain ⟨ipad, opad, alg, h⟩ | ⟨k1, k2, k3, h⟩ := separateMac_cases hlegal hmode
  · rw [h.macStart] at hme
    rw [macFinish, h.mode]
    exact runs_hmacFinish h m hme
  · rw [h.macStart] at hme
    rw [macFinish, h.mode]
    obtain ⟨me, hruns⟩ := runs_xcbcFinish (pre := pre) h m hme
    exact ⟨me, w.digs, hruns⟩

/-- The truncated tag is no longer than the digest (R85, R256). -/
theorem tagLen_le_authRef {c : Ctx} (hlegal : CtxLegal c) (hmode : c.cipherMode = .cbc ∨ c.cipherMode = .ctr)
    (m : List Byte) : c.tagLen.toNat ≤ (authRef c m).length ∧ (authRef c m).length ≤ 32 := by
  have ⟨hcombo, hlegalTag, _⟩ := hlegal
  obtain ⟨hsha1, hsha256, hxcbc, -, -⟩ := (legalTagLen_iff hcombo c.tagLen).mp hlegalTag
  obtain ⟨ipad, opad, alg, h⟩ | ⟨k1, k2, k3, h⟩ := separateMac_cases hlegal hmode
  · have hlen := h.algOfMode
    rw [h.authRef, hashDigest, macDigest_length]
    cases ha : c.authMode <;> rw [ha] at hlen <;> cases hlen
    · exact ⟨(hsha1 ha).2, by norm_num⟩
    · exact ⟨(hsha256 ha).2, by norm_num⟩
  · rw [h.authRef, Vector.length_toList]
    exact ⟨(hxcbc h.mode).2, by norm_num⟩

/-- The bytes of a tag register that a request uses. -/
theorem take_toReg {n k : Nat} {l : List Byte} (hk : k ≤ l.length) (hl : l.length ≤ n) :
    (toReg n l).toList.take k = l.take k := by
  rw [toReg_toList_of_le hl, List.take_append_of_le_length hk]

/-! The plans of HMAC and XCBC (R188 to R190). -/

theorem civ_of_cbc {c : Ctx} {iv : List Byte} {cryptlen aadeff : Nat} {f : Frame} {a0len : BitVec 3}
    (h : frameBuild c iv cryptlen aadeff = .ok (f, a0len)) (hmode : c.cipherMode = .cbc) : f.civ = cbcCiv c iv := by
  simp only [frameBuild, hmode, Except.ok.injEq, Prod.mk.injEq] at h
  rw [← h.1]

theorem civ_of_ctr {c : Ctx} {iv : List Byte} {cryptlen aadeff : Nat} {f : Frame} {a0len : BitVec 3}
    (h : frameBuild c iv cryptlen aadeff = .ok (f, a0len)) (hmode : c.cipherMode = .ctr) : f.civ = ctrCiv c iv := by
  simp only [frameBuild, hmode, Except.ok.injEq, Prod.mk.injEq] at h
  rw [← h.1]

/-- The engine that `CipherLoad` loads. -/
def State.loadedEngine (r : State) (d : Dir) : CipherEngine :=
  r.engine (if r.ctx.cipherMode = .cbc then .cbc else .ctr) d r.frame.civ

theorem loadedEngine_mode (r : State) (d : Dir) : (r.loadedEngine d).mode = .cbc ∨ (r.loadedEngine d).mode = .ctr := by
  unfold State.loadedEngine State.engine
  split
  · exact .inl rfl
  · exact .inr rfl

/-- The cipher of CBC and CTR is the one that `CipherLoad` loads (R157 to R159, R264 to R266). -/
theorem loadedEngine_apply {iv : List Byte} (h : PlanStart r iv) (hmode : r.ctx.cipherMode = .cbc ∨ r.ctx.cipherMode = .ctr)
    (d : Dir) : (r.loadedEngine d).apply r.payloadIn = cipherRef r.ctx d iv r.payloadIn := by
  rw [State.loadedEngine, engine_apply h.legal, cipherRef]
  obtain hmode | hmode := hmode
  · rw [hmode, civ_of_cbc h.frame hmode]
    rfl
  · rw [hmode, civ_of_ctr h.frame hmode]
    rfl

theorem requestTag_of_separate_mac {iv : List Byte} (hmode : r.ctx.cipherMode = .cbc ∨ r.ctx.cipherMode = .ctr) (d : Dir) :
    requestTag r d iv
      = authRef r.ctx (r.range .aad ++ fusedBytes (cipherSide d) r.payloadIn (cipherRef r.ctx d iv r.payloadIn)) := by
  obtain hmode | hmode := hmode <;> rw [requestTag, tagRef, hmode]

theorem work_out_length (r : State) : r.work.out.length = r.cryptlen.toNat := payloadOut_length r

theorem macAbsorb_append (st : MacState) (x y : List Byte) : macAbsorb (macAbsorb st x) y = macAbsorb st (x ++ y) := by
  simp [macAbsorb]

/-- `runs_habs_if` without padding. -/
theorem runs_absorb_if {src : AbsSrc} {n : Nat} (hfin : w.me.st.fin = false) (hlen : (w.range r src).length = n) :
    Runs r pre (emitIf (decide (0 < n)) [.habs src 0]) w (w.absorb (w.range r src)) := by
  have h := runs_habs_if (pre := pre) hfin hlen (pad := 0) (by norm_num) fun _ => rfl
  rwa [zeros, List.replicate_zero, List.append_nil] at h

theorem runs_fuse_unpadded_if {side : Side} (hout : w.out.length = r.cryptlen.toNat) (hmode : w.ce.mode ≠ .ecb)
    (hfin : w.me.st.fin = false) :
    Runs r pre (emitIf (decide (0 < r.cryptlen.toNat)) [.fuse side 0]) w
      ((w.produce (w.ce.apply r.payloadIn)).absorb (fusedBytes side r.payloadIn (w.ce.apply r.payloadIn))) := by
  have h := runs_fuse_if (pre := pre) (side := side) hout hmode hfin (pad := 0) (by norm_num) fun _ => rfl
  rwa [zeros, List.replicate_zero, List.append_nil] at h

/-- A plan of HMAC or XCBC that ends with the reference's output and the MAC of its message computes the request. -/
theorem computes_of_authRef {iv : List Byte} {body : List Instr} {d : Dir} (hlegal : CtxLegal r.ctx)
    (hmode : r.ctx.cipherMode = .cbc ∨ r.ctx.cipherMode = .ctr) {w : Work} (hruns : Runs r [] body r.work w)
    (hout : w.out = cipherRef r.ctx d iv r.payloadIn) (htags : w.tags = toReg 32 (requestTag r d iv)) :
    Computes r d iv body := by
  rw [requestTag_of_separate_mac hmode] at htags
  obtain ⟨htake, hfits⟩ := tagLen_le_authRef hlegal hmode
    (r.range .aad ++ fusedBytes (cipherSide d) r.payloadIn (cipherRef r.ctx d iv r.payloadIn))
  refine ⟨w, hruns, hout, ?_⟩
  rw [htags, requestTag_of_separate_mac hmode, take_toReg htake hfits]

/-- Single pass (R188): cipher and MAC run together. -/
theorem computes_single {iv : List Byte} (h : PlanStart r iv) (hmode : r.ctx.cipherMode = .cbc ∨ r.ctx.cipherMode = .ctr)
    (d : Dir) :
    Computes r d iv (macLoad r.ctx ++ cipherLoad r.ctx d ++ emitIf (0 < r.aadeff.toNat) [.habs .aad 0]
      ++ emitIf (0 < r.cryptlen.toNat) [.fuse (cipherSide d) 0] ++ macFinish r.ctx) := by
  have hopen := macStart_fin h.legal hmode
  have hcipher := loadedEngine_apply h hmode d
  have hnotEcb : (r.loadedEngine d).mode ≠ .ecb := by
    obtain hce | hce := loadedEngine_mode r d <;> rw [hce] <;> decide
  let y := (r.loadedEngine d).apply r.payloadIn
  let w1 : Work := { r.work with me := macStart r.ctx, ce := r.loadedEngine d }
  let w2 := w1.absorb (r.range .aad)
  let w3 := (w2.produce y).absorb (fusedBytes (cipherSide d) r.payloadIn y)
  have hload : Runs r [] (macLoad r.ctx ++ cipherLoad r.ctx d) r.work w1 :=
    (runs_macLoad h.legal hmode).append (runs_cipherLoad d)
  have haad := hload.append (runs_absorb_if (src := .aad) hopen (range_aad_length r))
  have hfuse : Runs r [] _ r.work w3 := haad.append (runs_fuse_unpadded_if (w := w2) (work_out_length r) hnotEcb hopen)
  obtain ⟨me, digs, hfinish⟩ := runs_macFinish (w := w3) h.legal hmode _ (by
    show ({ macStart r.ctx with st := macAbsorb (macAbsorb (macStart r.ctx).st _) _ } : MacEngine) = _
    rw [macAbsorb_append])
  refine computes_of_authRef h.legal hmode (hfuse.append hfinish) hcipher ?_
  rw [requestTag_of_separate_mac hmode, ← hcipher]

/-- Double pass, encrypt (R189): the cipher first, then the MAC over its output. -/
theorem computes_doubleEnc {iv : List Byte} (h : PlanStart r iv)
    (hmode : r.ctx.cipherMode = .cbc ∨ r.ctx.cipherMode = .ctr) :
    Computes r .encrypt iv (cipherLoad r.ctx .encrypt ++ emitIf (0 < r.cryptlen.toNat) [.capp] ++ macLoad r.ctx
      ++ emitIf (0 < r.aadeff.toNat) [.habs .aad 0] ++ emitIf (0 < r.cryptlen.toNat) [.habs .pout 0]
      ++ macFinish r.ctx) := by
  have hopen := macStart_fin h.legal hmode
  have hcipher := loadedEngine_apply h hmode .encrypt
  let y := (r.loadedEngine .encrypt).apply r.payloadIn
  let w1 : Work := { r.work with ce := r.loadedEngine .encrypt, out := y, me := macStart r.ctx }
  let w2 := w1.absorb (r.range .aad)
  let w3 := w2.absorb y
  have hy : y.length = r.cryptlen.toNat := (CipherEngine.apply_length _ _).trans (payloadIn_length r)
  have hload : Runs r [] _ r.work w1 :=
    ((runs_cipherLoad .encrypt).append (runs_capp_if (w := { r.work with ce := r.loadedEngine .encrypt }) (work_out_length r)
      (loadedEngine_mode r .encrypt))).append (runs_macLoad h.legal hmode)
  have haad := hload.append (runs_absorb_if (src := .aad) hopen (range_aad_length r))
  have hpout : Runs r [] _ r.work w3 := haad.append (runs_absorb_if (src := .pout) hopen hy)
  obtain ⟨me, digs, hfinish⟩ := runs_macFinish (w := w3) h.legal hmode _ (by
    show ({ macStart r.ctx with st := macAbsorb (macAbsorb (macStart r.ctx).st _) _ } : MacEngine) = _
    rw [macAbsorb_append])
  refine computes_of_authRef h.legal hmode (hpout.append hfinish) hcipher ?_
  rw [requestTag_of_separate_mac hmode, ← hcipher]
  rfl

/-- Double pass, decrypt (R190): the MAC over the input first, then the cipher. -/
theorem computes_doubleDec {iv : List Byte} (h : PlanStart r iv)
    (hmode : r.ctx.cipherMode = .cbc ∨ r.ctx.cipherMode = .ctr) :
    Computes r .decrypt iv (macLoad r.ctx ++ emitIf (0 < r.aadeff.toNat) [.habs .aad 0]
      ++ emitIf (0 < r.cryptlen.toNat) [.habs .pin 0] ++ macFinish r.ctx ++ cipherLoad r.ctx .decrypt
      ++ emitIf (0 < r.cryptlen.toNat) [.capp]) := by
  have hopen := macStart_fin h.legal hmode
  let w1 : Work := { r.work with me := macStart r.ctx }
  let w2 := w1.absorb (r.range .aad)
  let w3 := w2.absorb r.payloadIn
  have haad : Runs r [] _ r.work w2 :=
    (runs_macLoad h.legal hmode).append (runs_absorb_if (w := w1) (src := .aad) hopen (range_aad_length r))
  have hpin : Runs r [] _ r.work w3 := haad.append (runs_absorb_if (w := w2) (src := .pin) hopen (payloadIn_length r))
  obtain ⟨me, digs, hfinish⟩ := runs_macFinish (w := w3) h.legal hmode _ (by
    show ({ macStart r.ctx with st := macAbsorb (macAbsorb (macStart r.ctx).st _) _ } : MacEngine) = _
    rw [macAbsorb_append])
  have hload := (hpin.append hfinish).append (runs_cipherLoad .decrypt)
  refine computes_of_authRef h.legal hmode
    (hload.append (runs_capp_if (work_out_length r) (loadedEngine_mode r .decrypt))) (loadedEngine_apply h hmode .decrypt) ?_
  rw [requestTag_of_separate_mac hmode]
  rfl

end

end Sys2Proof.Machine

/-! The plans of CCM, GCM and RFC 4543 (`spec/44_plan_generation.md` R200 to R202): CBC-MAC or GHASH over the message of
R165, R175 or R178, and a tag masked by one counter block (R166, R180). -/

namespace Sys2Proof.Machine

open Sys2Proof Sys2Proof.Safety

/-! Legal contexts of the two modes (R84, R85). -/

theorem family_of_aead {c : Ctx} (hlegal : CtxLegal c) (hmode : c.cipherMode = .ccm ∨ c.cipherMode = .gctr) :
    c.family = .aes ∧ c.tagLen.toNat ≤ 16 := by
  obtain ⟨hcombo, htag, -⟩ := hlegal
  obtain ⟨-, -, -, hccm, hgctr⟩ := (legalTagLen_iff hcombo c.tagLen).mp htag
  obtain hmode | hmode := hmode
  · have htagLen := hccm hmode
    rw [hmode, legalCombo_iff] at hcombo
    refine ⟨hcombo.2.1, ?_⟩
    simp only [List.mem_cons, List.not_mem_nil, or_false] at htagLen
    omega
  · have htagLen := hgctr hmode
    rw [hmode, legalCombo_iff] at hcombo
    exact ⟨hcombo.2.1, htagLen.2⟩

section

variable {r : State} {pre : List Instr} {w : Work}

theorem Work.absorb_absorb (w : Work) (x y : List Byte) : (w.absorb x).absorb y = w.absorb (x ++ y) := by
  simp only [Work.absorb, macAbsorb_append]

theorem fusedBytes_length {side : Side} {x y : List Byte} {n : Nat} (hx : x.length = n) (hy : y.length = n) :
    (fusedBytes side x y).length = n := by
  cases side
  · exact hx
  · exact hy

theorem pad16_of_zero {n : Nat} (h : n = 0) : pad16 n = 0 := by
  rw [h, pad16_zero]

/-! The masked tag (R222, R223). -/

/-- A 16-byte digest in `TAGS`, masked: the bytes a request uses are those of the exclusive or. -/
theorem maskedTag_take {digest : List Byte} {k : Nat} (hdigest : digest.length = 16) (mask : Block) (hk : k ≤ 16) :
    (toReg 32 (xorBytes ((toReg 32 digest).toList.take 16) mask.toList ++ (toReg 32 digest).toList.drop 16)).toList.take k
      = (xorBytes digest mask.toList).take k := by
  have htake : (toReg 32 digest).toList.take 16 = digest := by
    rw [take_toReg (by omega) (by omega), ← hdigest, List.take_length]
  rw [htake, take_toReg (by simp [hdigest]; omega) (by simp [hdigest]),
    List.take_append_of_le_length (by simp [hdigest]; omega)]

/-- A run that leaves the reference's output and the whole message of a block MAC computes the request, once the digest is
extracted and masked. -/
theorem computes_of_maskedTag {iv : List Byte} {body : List Instr} {d : Dir} {blk : MaskBlk} {alg : MacAlg}
    {key msg : List Byte} (hfam : r.ctx.family = .aes) (htag : r.ctx.tagLen.toNat ≤ 16) (hruns : Runs r [] body r.work w)
    (hout : w.out = cipherRef r.ctx d iv r.payloadIn)
    (hme : w.me = { alg := alg, key := key, st := { msg := msg, fin := false } }) (halg : alg = .cbcmac ∨ alg = .ghash)
    (hlen : msg.length % 16 = 0)
    (hmasked : requestTag r d iv = xorBytes (macDigest alg key { msg := msg, fin := false })
      (aesEnc r.ctx.keyBytes (r.maskBlock blk)).toList) :
    Computes r d iv (body ++ [Instr.hext .tags, .ctag blk]) := by
  obtain ⟨ce, me, hash, tags, digs, out⟩ := w
  dsimp only at hme
  subst hme
  have hok : macDigestOk alg { msg := msg, fin := false } = true := by
    obtain rfl | rfl := halg <;> simp [macDigestOk, hlen]
  have hdigest : (macDigest alg key { msg := msg, fin := false }).length = 16 := by
    rw [macDigest_length]
    obtain rfl | rfl := halg <;> rfl
  refine ⟨_, hruns.append (.cons (.hextTags _ hok) (.one (.ctag blk _ (by simp) hfam))), hout, ?_⟩
  rw [hmasked]
  exact maskedTag_take hdigest _ htag

/-! CCM (R160 to R168, R200). -/

/-- What the Frame Builder makes for CCM (R162 to R164). -/
theorem frame_of_ccm {c : Ctx} {iv : List Byte} {cryptlen aadeff : Nat} {f : Frame} {a0len : BitVec 3}
    (h : frameBuild c iv cryptlen aadeff = .ok (f, a0len)) (hmode : c.cipherMode = .ccm) :
    f.b0 = ccmB0 (ccmIvx c iv) c.tagLen.toNat aadeff cryptlen ∧ f.a0 = toBlock (ccmA0 aadeff)
      ∧ f.ctr0 = ccmCtr0 (ccmIvx c iv) ∧ a0len = BitVec.ofNat 3 (ccmA0 aadeff).length := by
  simp only [frameBuild, hmode, ccmFrame] at h
  split at h
  · cases h
  · split at h
    · cases h
    · rw [Except.ok.injEq, Prod.mk.injEq] at h
      rw [← h.1, ← h.2]
      exact ⟨rfl, rfl, rfl, rfl⟩

theorem ccmA0_length_le (aadeff : Nat) : (ccmA0 aadeff).length ≤ 6 := by
  unfold ccmA0
  split
  · simp
  · split <;> simp

theorem range_a0_of_ccm {iv : List Byte} (h : PlanStart r iv) (hmode : r.ctx.cipherMode = .ccm) :
    r.range .a0 = ccmA0 r.aadeff.toNat ∧ r.a0len.toNat = (ccmA0 r.aadeff.toNat).length := by
  obtain ⟨-, ha0, -, hlen⟩ := frame_of_ccm h.frame hmode
  have hle := ccmA0_length_le r.aadeff.toNat
  have ha0len : r.a0len.toNat = (ccmA0 r.aadeff.toNat).length := by
    rw [hlen, BitVec.toNat_ofNat, Nat.mod_eq_of_lt (by omega)]
  refine ⟨?_, ha0len⟩
  rw [State.range, ha0, ha0len, toBlock, take_toReg le_rfl (by omega), List.take_length]

/-- The associated data of CCM's message with its length header and padding (R163, R165). -/
def ccmAad (aad : List Byte) : List Byte :=
  if aad = [] then [] else ccmA0 aad.length ++ aad ++ zeros (pad16 ((ccmA0 aad.length).length + aad.length))

theorem ccmAad_length_mod (aad : List Byte) : (ccmAad aad).length % 16 = 0 := by
  unfold ccmAad
  split
  · rfl
  · simp only [List.length_append, zeros_length]
    exact pad16_completes _

theorem ccmMacInput_eq (c : Ctx) (iv aad plain : List Byte) :
    ccmMacInput c iv aad plain
      = (ccmB0 (ccmIvx c iv) c.tagLen.toNat aad.length plain.length).toList ++ ccmAad aad
          ++ (plain ++ zeros (pad16 plain.length)) := rfl

theorem ccmMacInput_length_mod (c : Ctx) (iv aad plain : List Byte) : (ccmMacInput c iv aad plain).length % 16 = 0 := by
  have haad := ccmAad_length_mod aad
  have hplain := pad16_completes plain.length
  rw [ccmMacInput_eq]
  simp only [List.length_append, Vector.length_toList, zeros_length]
  omega

/-- The associated data as the plan absorbs it: header and data, or nothing (R205). -/
theorem runs_ccmAad {iv : List Byte} (h : PlanStart r iv) (hmode : r.ctx.cipherMode = .ccm) (hfin : w.me.st.fin = false) :
    Runs r pre (emitIf (0 < r.aadeff.toNat) [Instr.habs .a0 0, .habs .aad (pad16 (r.a0len.toNat + r.aadeff.toNat))]) w
      (w.absorb (ccmAad (r.range .aad))) := by
  obtain ⟨ha0, ha0len⟩ := range_a0_of_ccm h hmode
  have hlen := range_aad_length r
  obtain hzero | hpos := Nat.eq_zero_or_pos r.aadeff.toNat
  · have hnil : r.range .aad = [] := List.eq_nil_of_length_eq_zero (hlen.trans hzero)
    rw [hzero, emitIf_zero, hnil, ccmAad, if_pos rfl, Work.absorb_nil]
    exact .nil pre w
  · have haad : r.range .aad ≠ [] := List.ne_nil_of_length_pos (hlen ▸ hpos)
    have hheader : ccmA0 r.aadeff.toNat ≠ [] := by
      unfold ccmA0
      split
      · omega
      · split <;> simp [be]
    rw [emitIf_eq_of_pos hpos, ccmAad, if_neg haad, hlen, ← ha0len, ← ha0, List.append_assoc, ← Work.absorb_absorb]
    refine .cons (w1 := w.absorb (r.range .a0)) ?_ (.one (.habs .aad _ _ (pad16_lt _) hfin (by simp [Work.range, haad])))
    have hop : Op r pre (.habs .a0 0) w (w.absorb (r.range .a0 ++ zeros 0)) :=
      .habs .a0 0 w (by norm_num) hfin (by simp [Work.range, ha0, hheader])
    rwa [zeros, List.replicate_zero, List.append_nil] at hop

/-- CCM (R200): CBC-MAC over the plaintext, whichever side of the cipher it is on. -/
theorem computes_ccm {iv : List Byte} (h : PlanStart r iv) (hmode : r.ctx.cipherMode = .ccm) (d : Dir) :
    Computes r d iv ([Instr.keyldCe .ctr d, .stldCeCtr0p1, .keyldMeCbcmac, .stldMeZero, .habs .b0 0]
      ++ emitIf (0 < r.aadeff.toNat) [Instr.habs .a0 0, .habs .aad (pad16 (r.a0len.toNat + r.aadeff.toNat))]
      ++ emitIf (0 < r.cryptlen.toNat) [Instr.fuse (plainSide d) (pad16 r.cryptlen.toNat)]
      ++ [Instr.hext .tags, .ctag .ctr0]) := by
  obtain ⟨hfam, htag⟩ := family_of_aead h.legal (.inl hmode)
  obtain ⟨hb0, -, hctr0, -⟩ := frame_of_ccm h.frame hmode
  let ce := r.engine .ctr d (ctr0p1 r.frame.ctr0)
  let y := ce.apply r.payloadIn
  let plain := fusedBytes (plainSide d) r.payloadIn y
  let w1 : Work := { r.work with
    ce := ce,
    me := { alg := .cbcmac, key := r.ctx.keyBytes, st := macAbsorb emptyMac (r.frame.b0.toList ++ zeros 0) } }
  have hcipher : y = cipherRef r.ctx d iv r.payloadIn := by
    show ce.apply r.payloadIn = _
    rw [engine_apply h.legal, cipherRef, hmode, hctr0]
  have hplain : plain.length = r.cryptlen.toNat :=
    fusedBytes_length (payloadIn_length r) ((CipherEngine.apply_length _ _).trans (payloadIn_length r))
  have hload : Runs r [] [Instr.keyldCe .ctr d, .stldCeCtr0p1, .keyldMeCbcmac, .stldMeZero, .habs .b0 0] r.work w1 :=
    .cons (.keyldCe _ _ _) <| .cons (.stldCeCtr0p1 _) <| .cons (.keyldMeCbcmac _) <| .cons (.stldMeZero _ rfl) <|
      .one (.habs .b0 0 _ (by norm_num) rfl (List.ne_nil_of_length_pos (by simp [Work.range, State.range])))
  have hfuse := (hload.append (runs_ccmAad h hmode rfl)).append
    (runs_fuse_if (side := plainSide d) (work_out_length r) (show CeMode.ctr ≠ .ecb by decide) rfl (pad16_lt _)
      pad16_of_zero)
  have hmsg : [] ++ (r.frame.b0.toList ++ zeros 0) ++ ccmAad (r.range .aad) ++ (plain ++ zeros (pad16 r.cryptlen.toNat))
      = ccmMacInput r.ctx iv (r.range .aad) plain := by
    rw [ccmMacInput_eq, hplain, range_aad_length, ← hb0]
    simp [zeros]
  refine computes_of_maskedTag (alg := .cbcmac) (key := r.ctx.keyBytes) hfam htag hfuse hcipher
    (congrArg (fun m => ({ alg := .cbcmac, key := r.ctx.keyBytes, st := { msg := m, fin := false } } : MacEngine)) hmsg)
    (.inl rfl) (ccmMacInput_length_mod ..) ?_
  rw [requestTag, tagRef, hmode, ← hcipher, State.maskBlock, hctr0]
  rfl

/-! GCM and RFC 4543 (R172 to R180, R201, R202). -/

theorem frame_of_gctr {c : Ctx} {iv : List Byte} {cryptlen aadeff : Nat} {f : Frame} {a0len : BitVec 3}
    (h : frameBuild c iv cryptlen aadeff = .ok (f, a0len)) (hmode : c.cipherMode = .gctr) :
    f = gcmFrame c iv cryptlen aadeff := by
  simp only [frameBuild, hmode, Except.ok.injEq, Prod.mk.injEq] at h
  rw [← h.1]

theorem frame_len_of_gctr {iv : List Byte} (h : PlanStart r iv) (hmode : r.ctx.cipherMode = .gctr) :
    r.frame.len = gcmLen r.ctx r.cryptlen.toNat r.aadeff.toNat := by
  rw [frame_of_gctr h.frame hmode]
  rfl

/-- GHASH's subkey (R220). -/
def State.subkey (r : State) : Block := aesEnc r.ctx.keyBytes (zeroBytes 16)

/-- The MAC engine in the middle of a GHASH. -/
def State.ghashing (r : State) (msg : List Byte) : MacEngine :=
  { alg := .ghash, key := r.subkey.toList, st := { msg := msg, fin := false } }

/-- The subkey derived and loaded (R201, R202). -/
theorem runs_ghashLoad (hlegal : CtxLegal r.ctx) (hfam : r.ctx.family = .aes) :
    Runs r pre [Instr.keyldCe .ecb .encrypt, .hdrv, .keyldMeGhash, .stldMeZero] w
      { w with ce := r.engine .ecb .encrypt w.ce.iv, h := r.subkey, me := r.ghashing [] } := by
  rw [State.ghashing, State.subkey, ← engine_keyBytes hlegal .ecb .encrypt w.ce.iv]
  exact .cons (.keyldCe _ _ _) <| .cons (.hdrv _ rfl rfl hfam) <| .cons (.keyldMeGhash _ (by simp)) <|
    .one (.stldMeZero _ rfl)

theorem macDigest_ghash (h : Block) (st : MacState) : macDigest .ghash h.toList st = (ghash h st.msg).toList := by
  rw [macDigest, toBlock, toReg_toList_self]

/-- The last segment of the GHASH plans: the length block absorbed, the digest extracted and masked by `J1`. -/
theorem computes_of_ghash {iv : List Byte} (h : PlanStart r iv) (hmode : r.ctx.cipherMode = .gctr) {d : Dir}
    {body : List Instr} {msg : List Byte} (hruns : Runs r [] body r.work w)
    (hout : w.out = cipherRef r.ctx d iv r.payloadIn)
    (hme : w.me = r.ghashing msg) (hlen : msg.length % 16 = 0)
    (hmsg : msg ++ r.frame.len.toList = gcmMacInput r.ctx iv (r.range .aad)
      (fusedBytes (cipherSide d) r.payloadIn (cipherRef r.ctx d iv r.payloadIn))) :
    Computes r d iv (body ++ [Instr.habs .lenblk 0, .hext .tags, .ctag .j1]) := by
  obtain ⟨hfam, htag⟩ := family_of_aead h.legal (.inr hmode)
  have hj1 : r.maskBlock .j1 = toBlock (gcmNonce r.ctx iv ++ be 4 1) := by
    show r.frame.j1 = _
    rw [frame_of_gctr h.frame hmode]
    rfl
  have hblock : r.frame.len.toList ++ zeros 0 = r.frame.len.toList := List.append_nil _
  have hopen : w.me.st.fin = false := by rw [hme]; rfl
  have habs : Runs r [] (body ++ [.habs .lenblk 0]) r.work (w.absorb (r.frame.len.toList ++ zeros 0)) :=
    hruns.append (.one (.habs .lenblk 0 w (by norm_num) hopen
      (List.ne_nil_of_length_pos (by simp [Work.range, State.range]))))
  have hme' : (w.absorb (r.frame.len.toList ++ zeros 0)).me = r.ghashing (msg ++ r.frame.len.toList) := by
    rw [hblock, Work.absorb, hme]
    rfl
  have hmasked : requestTag r d iv
      = xorBytes (macDigest .ghash r.subkey.toList { msg := msg ++ r.frame.len.toList, fin := false })
          (aesEnc r.ctx.keyBytes (r.maskBlock .j1)).toList := by
    rw [macDigest_ghash, hj1, hmsg, requestTag, tagRef, hmode]
    rfl
  have hcomputes := computes_of_maskedTag hfam htag habs hout hme' (.inr rfl) (by simp [hlen]) hmasked
  simpa using hcomputes

/-- GCM (R201): GHASH over the ciphertext, whichever side of the cipher it is on. -/
theorem computes_gcm {iv : List Byte} (h : PlanStart r iv) (hmode : r.ctx.cipherMode = .gctr) (hwrap : r.ctx.wrap ≠ .rfc4543)
    (d : Dir) :
    Computes r d iv ([Instr.keyldCe .ecb .encrypt, .hdrv, .keyldMeGhash, .stldMeZero]
      ++ emitIf (0 < r.aadeff.toNat) [Instr.habs .aad (pad16 r.aadeff.toNat)] ++ [Instr.keyldCe .gctr d, .stldCeJ2]
      ++ emitIf (0 < r.cryptlen.toNat) [Instr.fuse (cipherSide d) (pad16 r.cryptlen.toNat)]
      ++ [Instr.habs .lenblk 0, .hext .tags, .ctag .j1]) := by
  obtain ⟨hfam, -⟩ := family_of_aead h.legal (.inr hmode)
  let y := (r.engine .gctr d r.frame.j2).apply r.payloadIn
  let aad := r.range .aad ++ zeros (pad16 r.aadeff.toNat)
  let cipher := fusedBytes (cipherSide d) r.payloadIn y
  let w1 : Work := { r.work with ce := r.engine .ecb .encrypt r.ce.iv, h := r.subkey, me := r.ghashing [] }
  let w2 : Work := { w1 with me := r.ghashing aad }
  let w3 : Work := { w2 with ce := r.engine .gctr d r.frame.j2 }
  let w4 : Work := { w3 with out := y, me := r.ghashing (aad ++ (cipher ++ zeros (pad16 r.cryptlen.toNat))) }
  have hcipher : y = cipherRef r.ctx d iv r.payloadIn := by
    show (r.engine .gctr d r.frame.j2).apply r.payloadIn = _
    rw [engine_apply h.legal, cipherRef, hmode, frame_of_gctr h.frame hmode]
    exact (if_neg hwrap).symm
  have hlen : cipher.length = r.cryptlen.toNat :=
    fusedBytes_length (payloadIn_length r) ((CipherEngine.apply_length _ _).trans (payloadIn_length r))
  have haad : Runs r [] _ r.work w2 := (runs_ghashLoad (pre := []) (w := r.work) h.legal hfam).append
    (runs_habs_if (w := w1) (src := .aad) rfl (range_aad_length r) (pad16_lt _) pad16_of_zero)
  have hload : Runs r [] _ r.work w3 := haad.append (.cons (.keyldCe .gctr d w2) (.one (.stldCeJ2 _)))
  have hfuse : Runs r [] _ r.work w4 := hload.append (runs_fuse_if (w := w3) (side := cipherSide d) (work_out_length r)
    (show CeMode.gctr ≠ .ecb by decide) rfl (pad16_lt _) pad16_of_zero)
  refine computes_of_ghash h hmode hfuse hcipher rfl ?_ ?_
  · have haad16 := pad16_completes r.aadeff.toNat
    have hcipher16 := pad16_completes r.cryptlen.toNat
    simp only [aad, List.length_append, zeros_length, range_aad_length, hlen]
    omega
  · rw [← hcipher, gcmMacInput, if_neg hwrap, frame_len_of_gctr h hmode]
    show _ = r.range .aad ++ zeros (pad16 (r.range .aad).length) ++ (cipher ++ zeros (pad16 cipher.length))
      ++ (gcmLen r.ctx cipher.length (r.range .aad).length).toList
    rw [hlen, range_aad_length]

/-- The payload copied and absorbed, or nothing where it is empty (R202). -/
theorem runs_copy_if {head : List Byte} {pad : Nat} (hout : w.out.length = r.cryptlen.toNat) (hme : w.me = r.ghashing head)
    (hpad : pad < 16) :
    Runs r pre (emitIf (0 < r.cryptlen.toNat) [Instr.copy, .habs .pin pad]) w
      { w with out := r.payloadIn,
               me := r.ghashing (if r.cryptlen.toNat = 0 then head else head ++ (r.payloadIn ++ zeros pad)) } := by
  obtain ⟨ce, me, hash, tags, digs, out⟩ := w
  dsimp only at hme hout
  subst hme
  obtain hempty | hpos := Nat.eq_zero_or_pos r.cryptlen.toNat
  · have hin : r.payloadIn = out := by
      rw [List.eq_nil_of_length_eq_zero (hout.trans hempty)]
      exact List.eq_nil_of_length_eq_zero ((payloadIn_length r).trans hempty)
    rw [if_pos hempty, hempty, emitIf_zero, hin]
    exact .nil _ _
  · have hdata : r.payloadIn ++ zeros pad ≠ [] := List.ne_nil_of_length_pos (by
      rw [List.length_append, payloadIn_length]
      omega)
    rw [if_neg hpos.ne', emitIf_eq_of_pos hpos]
    exact .cons (.copy _ hpos) (.one (.habs .pin pad _ hpad rfl hdata))

/-- RFC 4543 (R202): the payload is copied and authenticated, with the associated data and the IV before it. -/
theorem computes_gmac {iv : List Byte} (h : PlanStart r iv) (hmode : r.ctx.cipherMode = .gctr)
    (hwrap : r.ctx.wrap = .rfc4543) (d : Dir) :
    Computes r d iv ([Instr.keyldCe .ecb .encrypt, .hdrv, .keyldMeGhash, .stldMeZero, .habs .aad 0,
        .habs .iv8 (if r.cryptlen.toNat = 0 then pad16 (r.aadeff.toNat + 8) else 0)]
      ++ emitIf (0 < r.cryptlen.toNat) [Instr.copy, .habs .pin (pad16 (r.aadeff.toNat + 8 + r.cryptlen.toNat))]
      ++ [Instr.habs .lenblk 0, .hext .tags, .ctag .j1]) := by
  obtain ⟨hfam, -⟩ := family_of_aead h.legal (.inr hmode)
  let n := r.cryptlen.toNat
  let pad := if n = 0 then pad16 (r.aadeff.toNat + 8) else 0
  let head := r.range .aad ++ zeros 0 ++ (r.range .iv8 ++ zeros pad)
  let msg := r.range .aad ++ r.range .iv8 ++ r.payloadIn ++ zeros (pad16 (r.aadeff.toNat + 8 + n))
  let w1 : Work := { r.work with ce := r.engine .ecb .encrypt r.ce.iv, h := r.subkey, me := r.ghashing [] }
  let w2 : Work := { w1 with me := r.ghashing head }
  let w3 : Work := { w2 with out := r.payloadIn, me := r.ghashing msg }
  have haad : r.range .aad ≠ [] := List.ne_nil_of_length_pos ((range_aad_length r).symm ▸ h.aad hwrap)
  have hiv : (r.range .iv8).length = 8 := readRange_length ..
  have hpad : pad < 16 := by
    show (if n = 0 then _ else 0) < 16
    split
    · exact pad16_lt _
    · norm_num
  have hcipher : r.payloadIn = cipherRef r.ctx d iv r.payloadIn := by
    rw [cipherRef, hmode]
    exact (if_pos hwrap).symm
  have hside : fusedBytes (cipherSide d) r.payloadIn r.payloadIn = r.payloadIn := by cases d <;> rfl
  have haadBytes : w1.range r .aad ++ zeros 0 ≠ [] := by simp [Work.range, haad]
  have hivBytes : r.range .iv8 ++ zeros pad ≠ [] := List.ne_nil_of_length_pos (by simp [hiv])
  have hhead : Runs r []
      ([Instr.keyldCe .ecb .encrypt, .hdrv, .keyldMeGhash, .stldMeZero] ++ [Instr.habs .aad 0, .habs .iv8 pad]) r.work w2 :=
    (runs_ghashLoad h.legal hfam).append
      (.cons (.habs .aad 0 w1 (by norm_num) rfl haadBytes) (.one (.habs .iv8 pad _ hpad rfl hivBytes)))
  have hmsg : (if n = 0 then head else head ++ (r.payloadIn ++ zeros (pad16 (r.aadeff.toNat + 8 + n)))) = msg := by
    split
    · rename_i hempty
      have hin : r.payloadIn = [] := List.eq_nil_of_length_eq_zero ((payloadIn_length r).trans hempty)
      simp [head, msg, pad, hempty, hin, zeros]
    · rename_i hpos
      simp [head, msg, pad, hpos, zeros]
  have hpayload : Runs r [] _ r.work w3 := hmsg ▸ hhead.append (runs_copy_if (work_out_length r) rfl (pad16_lt _))
  refine computes_of_ghash h hmode hpayload hcipher rfl ?_ ?_
  · have h16 := pad16_completes (r.aadeff.toNat + 8 + n)
    simp only [msg, List.length_append, zeros_length, range_aad_length, hiv, payloadIn_length]
    omega
  · rw [← hcipher, hside, gcmMacInput, if_pos hwrap, frame_len_of_gctr h hmode, range_aad_length, payloadIn_length, ← h.iv8]

end

end Sys2Proof.Machine

/-! A whole request (`spec/40_host_commands.md` R105, R106; `spec/45_plan_ops.md` R226; `spec/46_tag_verifier.md` R242 to
R245): from acceptance through the plan to the last operation, which stores the tag or compares it. -/

namespace Sys2Proof.Machine

open Sys2Proof Sys2Proof.Safety

/-! Every plan computes its request and ends in the tag step (R204, R226). -/

theorem hext_mem_macFinish (c : Ctx) : Instr.hext .tags ∈ macFinish c := by
  unfold macFinish
  split <;> simp

/-- The plan is some operations that compute the request, and the tag step. -/
def PlanComputes (r : State) (iv : List Byte) (d : Dir) (sp : Bool) : Prop :=
  ∃ body, planGen r.ctx d sp r.cryptlen.toNat r.aadeff.toNat r.a0len.toNat = body ++ [tagStep d]
    ∧ Instr.hext .tags ∈ body ∧ Computes r d iv body

theorem planComputes_of_separate_mac {r : State} {iv : List Byte} (h : PlanStart r iv)
    (hmode : r.ctx.cipherMode = .cbc ∨ r.ctx.cipherMode = .ctr) (d : Dir) (sp : Bool) : PlanComputes r iv d sp := by
  have hmem := hext_mem_macFinish r.ctx
  cases sp with
  | true => exact ⟨_, planGen_of_single hmode .., by simp [hmem], computes_single h hmode d⟩
  | false =>
    cases d with
    | encrypt => exact ⟨_, planGen_of_double_encrypt hmode .., by simp [hmem], computes_doubleEnc h hmode⟩
    | decrypt => exact ⟨_, planGen_of_double_decrypt hmode .., by simp [hmem], computes_doubleDec h hmode⟩

/-- Every legal context's plan computes its request, by cipher mode. -/
theorem planComputes {r : State} {iv : List Byte} (h : PlanStart r iv) (d : Dir) (sp : Bool) : PlanComputes r iv d sp := by
  cases hmode : r.ctx.cipherMode with
  | cbc => exact planComputes_of_separate_mac h (.inl hmode) d sp
  | ctr => exact planComputes_of_separate_mac h (.inr hmode) d sp
  | ccm =>
    refine ⟨_, ?_, ?_, computes_ccm h hmode d⟩
    · simp [planGen, hmode, planCcm]
    · simp
  | gctr =>
    by_cases hwrap : r.ctx.wrap = .rfc4543
    · refine ⟨_, ?_, ?_, computes_gmac h hmode hwrap d⟩
      · simp [planGen, hmode, hwrap, planGmac]
      · simp
    · refine ⟨_, ?_, ?_, computes_gcm h hmode hwrap d⟩
      · simp [planGen, hmode, hwrap, planGcm]
      · simp

/-! The Mode Selector's answer (R140 to R146). -/

/-- What an accepted request's lengths satisfy. -/
structure ModeAccepted (caps : Caps) (c : Ctx) (d : Dir) (inlen aadlen : Nat) (v : Verdict) : Prop where
  cryptlen : v.cryptlen = if d = .decrypt then inlen - c.tagLen.toNat else inlen
  tagPresent : d = .decrypt → c.tagLen.toNat ≤ inlen
  inFits : inlen ≤ caps.bufCap
  outFits : d = .encrypt → inlen + c.tagLen.toNat ≤ caps.bufCap
  aadFits : v.aadeff ≤ aadlen
  gmac : c.wrap = .rfc4543 → 0 < v.aadeff

theorem modeAccepted_of_ok {caps : Caps} {c : Ctx} {d : Dir} {inlen aadlen : Nat} {v : Verdict}
    (h : modeSelect caps c d inlen aadlen = .ok v) : ModeAccepted caps c d inlen aadlen v := by
  simp only [modeSelect] at h
  generalize hcrypt : (if d = .decrypt then inlen - c.tagLen.toNat else inlen) = cryptlen at h
  generalize haadeff : (if ivWrapped c.wrap = true then aadlen - 8 else aadlen) = aadeff at h
  split at h
  · cases h
  · rename_i hshort
    split at h
    · cases h
    · rename_i hbig
      split at h
      · cases h
      · split at h
        · cases h
        · rename_i haad
          cases h
          refine ⟨hcrypt.symm, fun hd => ?_, by omega, fun hd => ?_, ?_, fun hwrap => ?_⟩
          · by_contra hlt
            exact hshort ⟨hd, by omega⟩
          · by_contra hlt
            exact hbig (.inr (.inr ⟨hd, by omega⟩))
          · show aadeff ≤ aadlen
            rw [← haadeff]
            split <;> omega
          · have hwrapped : ivWrapped c.wrap = true := by rw [hwrap]; rfl
            have hlen : aadlen = 16 ∨ aadlen = 20 := by
              by_contra hne
              exact haad ⟨hwrapped, by omega, by omega⟩
            show 0 < aadeff
            rw [← haadeff, if_pos hwrapped]
            omega

/-! From acceptance to the tag step. -/

/-- The register `PEND` of a request. -/
def requestPend : Dir → Pend
  | .encrypt => .enc
  | .decrypt => .dec

theorem step_of_request {s : State} {d : Dir} (h : Accepted s (requestPend d)) : step s = .next (s.requestSetup d) := by
  obtain ⟨hagenda, hbusy, hphase, hpend⟩ := h
  have hfetch := fetch_of_setup hbusy hphase
  rw [hpend] at hfetch
  rw [step_of_agenda_nil hagenda]
  cases d with
  | encrypt => exact sequencerTurn_of_run hfetch
  | decrypt => exact sequencerTurn_of_run hfetch

/-- An accepted request of a legal session, whose lengths and IV the setup step accepts and in which no primitive fails. -/
structure RequestOk (s : State) (d : Dir) (v : Verdict) (f : Frame × BitVec 3) : Prop where
  accepted : Accepted s (requestPend d)
  ctxv : s.status.ctxv = true
  legal : CtxLegal s.ctx
  caps : s.caps.Legal
  noFailure : NoFailure s
  mode : modeSelect s.caps s.ctx d s.inlen.toNat s.aadlen.toNat = .ok v
  frame : frameBuild s.ctx (s.readRange .ivBuf 0 16) v.cryptlen v.aadeff = .ok f

/-- The request as its setup step leaves it. -/
def State.started (s : State) (d : Dir) (v : Verdict) (f : Frame × BitVec 3) : State :=
  s.planned d v f (planGen s.ctx d v.sp v.cryptlen v.aadeff f.2.toNat)

section

variable {s : State} {d : Dir} {v : Verdict} {f : Frame × BitVec 3}

theorem RequestOk.lengths (h : RequestOk s d v f) :
    v.cryptlen ≤ s.inlen.toNat ∧ (s.started d v f).cryptlen.toNat = v.cryptlen
      ∧ (s.started d v f).aadeff.toNat = v.aadeff := by
  have hmode := modeAccepted_of_ok h.mode
  have haad := hmode.aadFits
  have hin := s.inlen.isLt
  have haadlen := s.aadlen.isLt
  have hcrypt : v.cryptlen ≤ s.inlen.toNat := by
    rw [hmode.cryptlen]
    split <;> omega
  refine ⟨hcrypt, ?_, ?_⟩
  · show (BitVec.ofNat 32 v.cryptlen).toNat = _
    rw [BitVec.toNat_ofNat, Nat.mod_eq_of_lt (by omega)]
  · show (BitVec.ofNat 32 v.aadeff).toNat = _
    rw [BitVec.toNat_ofNat, Nat.mod_eq_of_lt (by omega)]

theorem RequestOk.payloadIn (h : RequestOk s d v f) : (s.started d v f).payloadIn = s.readRange .inBuf 0 v.cryptlen := by
  rw [State.payloadIn, h.lengths.2.1]
  rfl

theorem RequestOk.range_aad (h : RequestOk s d v f) : (s.started d v f).range .aad = s.readRange .aadBuf 0 v.aadeff := by
  rw [State.range, h.lengths.2.2]
  rfl

theorem RequestOk.planStart (h : RequestOk s d v f) : PlanStart (s.started d v f) (s.readRange .ivBuf 0 16) := by
  obtain ⟨-, hcrypt, haad⟩ := h.lengths
  refine ⟨h.legal, ?_, ?_, fun hwrap => ?_⟩
  · rw [hcrypt, haad]
    exact h.frame
  · rw [readRange_take]
    rfl
  · rw [haad]
    exact (modeAccepted_of_ok h.mode).gmac hwrap

theorem RequestOk.atPlan (h : RequestOk s d v f) {plan : List Instr}
    (hplan : planGen s.ctx d v.sp v.cryptlen v.aadeff f.2.toNat = plan) : AtPlan [] plan (s.started d v f) := by
  obtain ⟨hagenda, hbusy, -, -⟩ := h.accepted
  obtain ⟨-, hmax⟩ := planGen_length s.ctx d v.sp v.cryptlen v.aadeff f.2.toNat
  subst hplan
  refine ⟨rfl, rfl, ?_, hmax, hbusy, rfl, hagenda⟩
  show (BitVec.ofNat 5 _).toNat = _
  rw [BitVec.toNat_ofNat, Nat.mod_eq_of_lt (by omega)]
  rfl

/-- The request arrives at its tag step with the reference's output in `OUTBUF` and the reference's tag in `TAGS`. -/
theorem RequestOk.reaches_tag (h : RequestOk s d v f) :
    ∃ k body t, k ≤ 13 ∧ turns k s = .next t ∧ AtPlan body [tagStep d] t ∧ Instr.hext .tags ∈ body
      ∧ InRequest (s.started d v f) t
      ∧ t.payloadOut = cipherRef s.ctx d (s.readRange .ivBuf 0 16) (s.readRange .inBuf 0 v.cryptlen)
      ∧ t.computedTag
        = (requestTag (s.started d v f) d (s.readRange .ivBuf 0 16)).take s.ctx.tagLen.toNat := by
  obtain ⟨hle, hcrypt, haad⟩ := h.lengths
  have hfit : (s.started d v f).cryptlen.toNat ≤ s.caps.bufCap := by
    rw [hcrypt]
    exact hle.trans (modeAccepted_of_ok h.mode).inFits
  obtain ⟨body, hplan, hmem, w, hruns, hout, htags⟩ := planComputes h.planStart d v.sp
  rw [hcrypt, haad] at hplan
  have hat := h.atPlan hplan
  have hshort := hat.short
  obtain ⟨t, hturns, hat', hin, hwork⟩ := turns_of_runs hfit hruns (by simp) hat (.refl h.noFailure) rfl
  have hstep : step s = .next (s.started d v f) := by
    rw [step_of_request h.accepted, requestSetup_of_accepted h.ctxv h.mode h.frame]
    rfl
  refine ⟨body.length + 1, body, t, ?_, (turns_succ_of_step hstep _).trans hturns, hat', hmem, hin, ?_, ?_⟩
  · simpa using hshort
  · rw [← h.payloadIn]
    exact (congrArg Work.out hwork).trans hout
  · rw [State.computedTag, hin.ctx, show t.tags = w.tags from congrArg Work.tags hwork]
    exact htags

end

/-! The tag step (R240). -/

theorem tagLen_le_32 {c : Ctx} (hlegal : CtxLegal c) : c.tagLen.toNat ≤ 32 := by
  have separate (hmode : c.cipherMode = .cbc ∨ c.cipherMode = .ctr) : c.tagLen.toNat ≤ 32 := by
    obtain ⟨htake, hfits⟩ := tagLen_le_authRef hlegal hmode []
    omega
  have aead (hmode : c.cipherMode = .ccm ∨ c.cipherMode = .gctr) : c.tagLen.toNat ≤ 32 :=
    (family_of_aead hlegal hmode).2.trans (by norm_num)
  cases hmode : c.cipherMode with
  | cbc => exact separate (.inl hmode)
  | ctr => exact separate (.inr hmode)
  | ccm => exact aead (.inl hmode)
  | gctr => exact aead (.inr hmode)

theorem readRange_append (s : State) (sp : Space) (a m n : Nat) :
    s.readRange sp a (m + n) = s.readRange sp a m ++ s.readRange sp (a + m) n := by
  have h := (List.take_append_drop m (s.readRange sp a (m + n))).symm
  rwa [readRange_take, readRange_drop, Nat.min_eq_left (by omega), Nat.add_sub_cancel_left] at h

theorem foldl_or_eq_zero_iff (l : List Byte) (a : Byte) : l.foldl (· ||| ·) a = 0 ↔ a = 0 ∧ ∀ b ∈ l, b = 0 := by
  induction l generalizing a with
  | nil => simp
  | cons b l ih =>
    rw [List.foldl_cons, ih, List.forall_mem_cons, ← and_assoc]
    exact and_congr_left' BitVec.or_eq_zero_iff

/-- The OR over all differences is zero exactly for equal strings (R243). -/
theorem diffBytes_eq_zero_iff {x y : List Byte} (h : x.length = y.length) : diffBytes x y = 0 ↔ x = y := by
  rw [diffBytes, foldl_or_eq_zero_iff, and_iff_right rfl]
  induction x generalizing y with
  | nil => simp [xorBytes, List.eq_nil_of_length_eq_zero h.symm]
  | cons a x ih =>
    cases y with
    | nil => simp at h
    | cons b y =>
      rw [xorBytes, List.zipWith_cons_cons, List.forall_mem_cons, List.cons.injEq]
      exact and_congr BitVec.xor_eq_zero_iff (ih (by simpa using h))

/-- An error raised on a zeroed output leaves it so (R244, R290). -/
theorem readByte_raise_zeroOutput (s : State) (e : CmdError) (sp : Space) (off : Nat) :
    (s.zeroOutput.raise e).readByte sp off = if sp = .outBuf ∧ off < s.cryptlen.toNat then 0 else s.readByte sp off := by
  rw [readByte_raise]
  obtain ⟨-, -, hzero⟩ | ⟨-, hsame⟩ := zeroIfWritten_cases s.zeroOutput
  · rw [hzero, readByte_zeroOutput, readByte_zeroOutput]
    show (if sp = .outBuf ∧ off < s.cryptlen.toNat then _ else _) = _
    split <;> rfl
  · rw [hsame, readByte_zeroOutput]

theorem readRange_zeros {s : State} {sp : Space} {n : Nat} (h : ∀ off, off < n → s.readByte sp off = 0) :
    s.readRange sp 0 n = zeros n := by
  refine List.ext_getElem (by simp) fun i hi _ => ?_
  rw [readRange_getElem, Nat.zero_add, h i (by simpa using hi)]
  simp [zeros]

theorem exec_tagout_store {s : State} (hdir : s.dir = .encrypt) (hran : s.hasRun (.hext .tags) = true) :
    exec (.tagout .store) s = .next s.storeTag.advance := by
  simp only [exec, execTagout]
  rw [require_of_true _ (by rw [hran, hdir]; rfl)]

theorem exec_tagout_cmp {s : State} (hdir : s.dir = .decrypt) (hran : s.hasRun (.hext .tags) = true) :
    exec (.tagout .cmp) s = .next s.compareTag := by
  simp only [exec, execTagout]
  rw [require_of_true _ (by rw [hran, hdir]; rfl)]

/-- The last operation of an encryption (R240): the tag is stored and the request completes. -/
theorem step_store {body : List Instr} {t : State} (hat : AtPlan body [.tagout .store] t) (hmem : Instr.hext .tags ∈ body)
    (hdir : t.dir = .encrypt) : step t = .next (State.complete { t.storeTag with pp := t.storeTag.pp + 1 }) := by
  rw [hat.step_eq ⟨rfl, rfl⟩, exec_tagout_store hdir (hat.hasRun hmem),
    hat.advance_last (u := t.storeTag) ⟨rfl, rfl, rfl, rfl, rfl, rfl, rfl, rfl⟩]

/-- The last operation of a decryption on an equal tag (R245): the request completes. -/
theorem step_compare_match {body : List Instr} {t : State} (hat : AtPlan body [.tagout .cmp] t)
    (hmem : Instr.hext .tags ∈ body) (hdir : t.dir = .decrypt) (htag : diffBytes t.computedTag t.receivedTag = 0) :
    step t = .next (State.complete { t with outlen := t.cryptlen, pp := t.pp + 1 }) := by
  rw [hat.step_eq ⟨rfl, rfl⟩, exec_tagout_cmp hdir (hat.hasRun hmem), State.compareTag, if_pos htag,
    hat.advance_last (u := { t with outlen := t.cryptlen }) ⟨rfl, rfl, rfl, rfl, rfl, rfl, rfl, rfl⟩]

/-- The last operation of a decryption on an unequal tag (R244): the output is zeroed and the request fails. -/
theorem step_compare_mismatch {body : List Instr} {t : State} (hat : AtPlan body [.tagout .cmp] t)
    (hmem : Instr.hext .tags ∈ body) (hdir : t.dir = .decrypt) (htag : diffBytes t.computedTag t.receivedTag ≠ 0) :
    step t = .next (t.zeroOutput.raise .authenticationFailed) := by
  rw [hat.step_eq ⟨rfl, rfl⟩, exec_tagout_cmp hdir (hat.hasRun hmem), State.compareTag, if_neg htag]

/-- The output of an encryption: the payload, then the tag (R242). -/
theorem readRange_storeTag {s : State} (hlen : s.computedTag.length = s.ctx.tagLen.toNat)
    (hfit : s.cryptlen.toNat + s.ctx.tagLen.toNat ≤ s.caps.bufCap) :
    s.storeTag.readRange .outBuf 0 (s.cryptlen.toNat + s.ctx.tagLen.toNat) = s.payloadOut ++ s.computedTag := by
  show (s.writeRange .outBuf s.cryptlen.toNat s.computedTag).readRange .outBuf 0 _ = _
  rw [readRange_append, Nat.zero_add, readRange_writeRange_disjoint (.inr (.inl (by omega))),
    readRange_writeRange_same hlen hfit]
  rfl

section

variable {s t : State} {d : Dir} {v : Verdict} {f : Frame × BitVec 3}

theorem RequestOk.completed_status (h : RequestOk s d v f) (hstatus : t.status = (s.started d v f).status) :
    t.status.completed = { busy := false, done := true, err := false, ctxv := true, sp := v.sp } := by
  rw [hstatus]
  show Status.mk false true false s.status.ctxv v.sp = _
  rw [h.ctxv]

theorem RequestOk.failed_status (h : RequestOk s d v f) (hstatus : t.status = (s.started d v f).status) :
    t.status.failed = { busy := false, done := true, err := true, ctxv := true, sp := v.sp } := by
  rw [hstatus]
  show Status.mk false true true s.status.ctxv v.sp = _
  rw [h.ctxv]

theorem InRequest.tagLen (hin : InRequest (s.started d v f) t) : t.ctx.tagLen.toNat = s.ctx.tagLen.toNat := by
  rw [hin.ctx]
  rfl

theorem RequestOk.computedTag_length (h : RequestOk s d v f) (hin : InRequest (s.started d v f) t) :
    t.computedTag.length = t.ctx.tagLen.toNat := by
  have htagLen := tagLen_le_32 h.legal
  rw [State.computedTag, hin.tagLen]
  simpa using htagLen

end

/-- Settles O59: the plan's last operation stores the reference's tag behind the reference's ciphertext. -/
theorem encryptEndToEnd : Obligations.EncryptEndToEnd := by
  intro s v f haccepted hctxv hlegal hcaps hdraws hmode hframe
  have h : RequestOk s .encrypt v f := ⟨haccepted, hctxv, hlegal, hcaps, hdraws, hmode, hframe⟩
  have hcryptlen : v.cryptlen = s.inlen.toNat := (modeAccepted_of_ok hmode).cryptlen
  have hfits := (modeAccepted_of_ok hmode).outFits rfl
  obtain ⟨-, -, -, -, hcap⟩ := hcaps
  obtain ⟨-, hcrypt, -⟩ := h.lengths
  obtain ⟨k, body, t, hk, hturns, hat, hmem, hin, hout, htag⟩ := h.reaches_tag
  have hcrypt' : t.cryptlen.toNat = s.inlen.toNat := by rw [hin.cryptlen, hcrypt, hcryptlen]
  have hfits' : t.cryptlen.toNat + t.ctx.tagLen.toNat ≤ t.caps.bufCap := by
    rw [hcrypt', hin.tagLen, hin.caps]
    exact hfits
  have houtlen : (t.cryptlen + t.ctx.tagLen.setWidth 32).toNat = t.cryptlen.toNat + t.ctx.tagLen.toNat := by
    have hcap' : t.caps.bufCap ≤ 2 ^ 32 - 1 := by rw [hin.caps]; exact hcap
    rw [BitVec.toNat_add, BitVec.toNat_setWidth, Nat.mod_eq_of_lt (b := 2 ^ 32) (by omega), Nat.mod_eq_of_lt (by omega)]
  refine ⟨k + 1, _, by omega, (turns_add hturns 1).trans (turns_one_of_step (step_store hat hmem hin.dir)),
    h.completed_status hin.status, rfl, ?_, ?_, hin.ctx, scrubbed_complete _,
    fun sp off hsp => (hin.writeOut t.cryptlen.toNat t.computedTag).bytes sp hsp off⟩
  · exact houtlen.trans (by rw [hcrypt', hin.tagLen])
  · show t.storeTag.readRange .outBuf 0 (t.cryptlen + t.ctx.tagLen.setWidth 32).toNat = _
    rw [houtlen, readRange_storeTag (h.computedTag_length hin) hfits', hout, htag, requestTag, h.payloadIn, h.range_aad,
      hcryptlen]
    rfl

/-- Settles O60: the plan's last operation compares the reference's tag with the received one. -/
theorem decryptEndToEnd : Obligations.DecryptEndToEnd := by
  intro s v f haccepted hctxv hlegal hcaps hdraws hmode hframe
  have h : RequestOk s .decrypt v f := ⟨haccepted, hctxv, hlegal, hcaps, hdraws, hmode, hframe⟩
  have hcryptlen : v.cryptlen = s.inlen.toNat - s.ctx.tagLen.toNat := (modeAccepted_of_ok hmode).cryptlen
  obtain ⟨-, hcrypt, -⟩ := h.lengths
  obtain ⟨k, body, t, hk, hturns, hat, hmem, hin, hout, htag⟩ := h.reaches_tag
  have hcrypt' : t.cryptlen.toNat = s.inlen.toNat - s.ctx.tagLen.toNat := by rw [hin.cryptlen, hcrypt, hcryptlen]
  have hreceived : t.receivedTag = s.readRange .inBuf (s.inlen.toNat - s.ctx.tagLen.toNat) s.ctx.tagLen.toNat := by
    rw [State.receivedTag, hin.readRange (by decide), hcrypt', hin.tagLen]
    rfl
  have hdiff : diffBytes t.computedTag t.receivedTag = 0 ↔ t.computedTag = t.receivedTag :=
    diffBytes_eq_zero_iff ((h.computedTag_length hin).trans (readRange_length ..).symm)
  rw [requestTag, h.payloadIn, h.range_aad, hcryptlen] at htag
  rw [hcryptlen, State.payloadOut, hcrypt'] at hout
  have reaches {u : State} (hstep : step t = .next u) : turns (k + 1) s = .next u :=
    (turns_add hturns 1).trans (turns_one_of_step hstep)
  dsimp only
  rw [← hreceived]
  by_cases heq : t.computedTag = t.receivedTag
  · exact ⟨k + 1, _, by omega, reaches (step_compare_match hat hmem hin.dir (hdiff.mpr heq)), hin.ctx, scrubbed_complete _,
      fun sp off hsp => hin.bytes sp hsp off, fun _ => ⟨h.completed_status hin.status, rfl, hcrypt', hout⟩,
      fun hne => absurd (htag.symm.trans heq) hne⟩
  · refine ⟨k + 1, _, by omega, reaches (step_compare_mismatch hat hmem hin.dir (mt hdiff.mp heq)),
      (raise_ctx _ _).trans hin.ctx, scrubbed_raise _ _, fun sp off hsp => ?_, fun htags => absurd (htag.trans htags) heq,
      fun _ => ⟨h.failed_status hin.status, rfl, rfl, readRange_zeros fun off hoff => ?_⟩⟩
    · rw [readByte_raise_zeroOutput, if_neg fun hzeroed => hsp hzeroed.1]
      exact hin.bytes sp hsp off
    · rw [readByte_raise_zeroOutput, if_pos ⟨rfl, hcrypt'.symm ▸ hoff⟩]

end Sys2Proof.Machine

/-! The key schedule's outcomes (`spec/41_key_schedule.md` R121 to R136): `SETKEY` ends in an error, or it creates the blob's
context, which is legal; either way `KEYBUF` is zero. -/

namespace Sys2Proof.Machine

open Sys2Proof Sys2Proof.Safety

/-! The two ends of `SETKEY` (R104). -/

/-- The state in which `SETKEY` raises an error: `KEYBUF` zeroized, `ds` the draws left. -/
def State.keyErased (s : State) (ds : List Bool) : State := { s.zeroKeyBuf with draws := ds }

/-- The state in which `SETKEY` completes: the blob's context under the configuration `c` stands and is valid. -/
def State.keyed (s : State) (c : CfgFields) (ds : List Bool) : State :=
  { s.keyErased ds with ctx := s.blobCtx c, status := { s.status with ctxv := true } }

/-- `SETKEY` raises an error, or without a context and with a legal configuration and legal lengths it creates one. -/
theorem execSetkey_cases (s : State) :
    (∃ ds e, execSetkey s = .next ((s.keyErased ds).raise e)) ∨
      (∃ c ds, s.status.ctxv = false ∧ CfgGives s.cfg c
        ∧ KeyLensOk s.caps.keyCap c s.keylen.toNat s.authkeylen.toNat ∧ execSetkey s = .next (s.keyed c ds).complete) := by
  cases hctxv : s.status.ctxv with
  | true => exact .inl ⟨s.draws, _, execSetkey_of_context hctxv⟩
  | false =>
    cases hcfg : legalCfg s.cfg with
    | none => exact .inl ⟨s.draws, _, execSetkey_of_illegal_cfg hctxv hcfg⟩
    | some c =>
      by_cases hlens : KeyLensOk s.caps.keyCap c s.keylen.toNat s.authkeylen.toNat
      · have hks := keySchedule_of_lengths hlens
        split at hks
        · exact .inl ⟨_, _, execSetkey_of_schedule_error hctxv hcfg hks⟩
        · exact .inr ⟨c, (drawMany (authCalls c.authMode s.authKey) s.draws).2, rfl, (legalCfg_eq_some_iff _ _).mp hcfg,
            hlens, execSetkey_of_schedule_ok hctxv hcfg hks⟩
      · exact .inl ⟨_, _, execSetkey_of_schedule_error hctxv hcfg (keySchedule_of_bad_lengths hlens)⟩

/-! A failing primitive (R132). -/

/-- The draws of a key derivation report a failure when one of them is true. -/
theorem drawMany_of_failure {n j : Nat} {draws : List Bool} (hj : j < n) (hfail : draws[j]? = some true) :
    (drawMany n draws).1 = true := by
  induction n generalizing j draws with
  | zero => omega
  | succ n ih =>
    cases draws with
    | nil => simp at hfail
    | cons b ds =>
      cases b with
      | true => rfl
      | false =>
        cases j with
        | zero => simp at hfail
        | succ j => exact ih (Nat.lt_of_succ_lt_succ hj) hfail

/-- Settles O17: with accepted lengths the schedule's only error is the one a true draw raises. -/
theorem setkeyDerivationFails : Obligations.SetkeyDerivationFails := by
  intro s c
  dsimp only
  rintro hctxv hcfg hlens ⟨j, hj, hfail⟩
  have hlen : s.authKey.length = s.authkeylen.toNat := readRange_length ..
  have hcalls : j < authCalls c.authMode s.authKey := by
    rw [← hlen] at hj
    cases hmode : c.authMode <;> rw [hmode] at hj <;> exact hj
  have hks := keySchedule_of_lengths hlens
  rw [if_pos (drawMany_of_failure hcalls hfail)] at hks
  refine ⟨_, execSetkey_of_schedule_error hctxv ((legalCfg_eq_some_iff _ _).mpr hcfg) hks, rfl, raise_ctx _ _, ?_⟩
  show Status.mk false true true s.status.ctxv s.status.sp = _
  rw [hctxv]

/-! `KEYBUF` afterwards (R136). -/

/-- Raising an error writes no space but `OUTBUF` (R290, R292). -/
theorem readByte_raise_of_ne_outBuf {s : State} (e : CmdError) {sp : Space} (hsp : sp ≠ .outBuf) (off : Nat) :
    (s.raise e).readByte sp off = s.readByte sp off := by
  rw [readByte_raise]
  obtain ⟨-, -, hzero⟩ | ⟨-, hsame⟩ := zeroIfWritten_cases s
  · rw [hzero, readByte_zeroOutput, if_neg fun hout => hsp hout.1]
  · rw [hsame]

/-- Settles O18: both ends of `SETKEY`, and `CLRKEY`, start from the zeroized `KEYBUF` and do not write it again. -/
theorem keyBufZeroized : Obligations.KeyBufZeroized := by
  rintro i s t (rfl | rfl) hexec off
  · obtain ⟨ds, e, hfails⟩ | ⟨c, ds, -, -, -, hcreates⟩ := execSetkey_cases s
    · cases hfails.symm.trans hexec
      rw [readByte_raise_of_ne_outBuf e (by decide)]
      exact readByte_zeroKeyBuf_key s off
    · cases hcreates.symm.trans hexec
      exact readByte_zeroKeyBuf_key s off
  · cases hexec
    exact readByte_zeroKeyBuf_key s off

/-! The created context is a legal one (R135). -/

theorem hmacKeyBlock_length (alg : MacAlg) (ak : List Byte) : (hmacKeyBlock alg ak).length = 64 := by
  unfold hmacKeyBlock
  split
  · exact ofLength_length 64 _
  · exact ofLength_length 64 _

theorem padState_length (alg : MacAlg) (c : Byte) (ak : List Byte) : (padState alg c ak).msg.length = 64 :=
  (xorRepeat_length c _).trans (hmacKeyBlock_length alg ak)

theorem matOk_deriveAuth (a : AuthMode) (ak : List Byte) : MatOk a (deriveAuth a ak) := by
  cases a with
  | hmacSha1 => exact ⟨.inl rfl, rfl, rfl, padState_length .sha1 0x36 ak, padState_length .sha1 0x5C ak⟩
  | hmacSha256 => exact ⟨.inr rfl, rfl, rfl, padState_length .sha256 0x36 ak, padState_length .sha256 0x5C ak⟩
  | xcbc => rfl
  | none => rfl

/-- The combination and the tag length of an accepted configuration are those of R84 and R85. -/
theorem legal_of_cfgGives {w : Word} {c : CfgFields} (h : CfgGives w c) :
    legalCombo c.cipherMode c.authMode c.family c.wrap = true
      ∧ legalTagLen c.cipherMode c.authMode c.tagLen.toNat = true := by
  obtain ⟨-, hlegal⟩ := Option.filter_eq_some_iff.mp ((legalCfg_eq_some_iff w c).mpr h)
  exact (Bool.and_eq_true _ _).mp hlegal

theorem ctxLegal_blobCtx {s : State} {c : CfgFields} (hcfg : CfgGives s.cfg c)
    (hlens : KeyLensOk s.caps.keyCap c s.keylen.toNat s.authkeylen.toNat) : CtxLegal (s.blobCtx c) := by
  obtain ⟨hcombo, htag⟩ := legal_of_cfgGives hcfg
  obtain ⟨-, -, henc, -⟩ := (keyLensOk_iff _ _ _ _).mp hlens
  have hkey32 := encKeyLen_le_32 henc
  have hnonce4 := nonceLen_le_4 c.wrap
  have hkeyLen : (s.blobCtx c).encKeyLen.toNat = s.keylen.toNat - s.authkeylen.toNat - nonceLen c.wrap := by
    show (BitVec.ofNat 6 (s.readRange .keyBuf _ _).length).toNat = _
    rw [readRange_length, BitVec.toNat_ofNat, Nat.mod_eq_of_lt (by omega)]
  have hnonceLen : (s.blobCtx c).nonceLen.toNat = nonceLen c.wrap := by
    show (BitVec.ofNat 3 (nonceLen c.wrap)).toNat = _
    rw [BitVec.toNat_ofNat, Nat.mod_eq_of_lt (by omega)]
  exact ⟨hcombo, htag, hkeyLen ▸ henc, hnonceLen, matOk_deriveAuth _ _⟩

end Sys2Proof.Machine

/-! The session context across a step (`spec/40_host_commands.md` R114, `spec/41_key_schedule.md` R134, R135): what each
instruction, the sequencer's turn and the other events can do to `CTX.*` and `CTXV`, said once; the invariant and the
immutability of the context follow. -/

namespace Sys2Proof.Machine

open Sys2Proof Sys2Proof.Safety

/-! What can happen to the context. -/

/-- `t` has the context registers and the `CTXV` of `s`. -/
def SameContext (s t : State) : Prop := t.ctx = s.ctx ∧ t.status.ctxv = s.status.ctxv

/-- `t` is a success of `SETKEY` from `s`, which had no context (R104, R135). -/
def ContextCreated (s t : State) : Prop :=
  s.status.ctxv = false ∧ t.status.ctxv = true ∧ t.errcode = none ∧ CtxLegal t.ctx

/-- `t` has no context, and its registers are zero (R110, R310). -/
def ContextCleared (t : State) : Prop := t.ctx = zeroCtx ∧ t.status.ctxv = false

theorem SameContext.raise {s u : State} (h : SameContext s u) (e : CmdError) : SameContext s (u.raise e) :=
  ⟨(raise_ctx u e).trans h.1, h.2⟩

theorem StepLeaves.sameContext {s t : State} (h : StepLeaves s t) : SameContext s t := by
  obtain ⟨u, hsame, hleaves⟩ := h
  have hu : SameContext s u := ⟨hsame.ctx, congrArg Status.ctxv hsame.status⟩
  obtain rfl | ⟨e, rfl⟩ := hleaves
  · exact ⟨(advance_ctx u).trans hu.1, (advance_ctxv u).trans hu.2⟩
  · exact hu.raise e

/-! The sequencer's turn (R103 to R111). -/

/-- The setup of a request leaves the context alone, whether it raises or starts a plan (R107). -/
theorem sameContext_requestSetup (s : State) (d : Dir) : SameContext s (s.requestSetup d) := by
  unfold State.requestSetup
  split
  · exact ⟨raise_ctx _ _, rfl⟩
  · split
    · exact ⟨raise_ctx _ _, rfl⟩
    · dsimp only
      split
      · exact ⟨raise_ctx _ _, rfl⟩
      · exact ⟨rfl, rfl⟩

theorem context_of_execSetkey {s t : State} (h : execSetkey s = .next t) : SameContext s t ∨ ContextCreated s t := by
  obtain ⟨ds, e, hfails⟩ | ⟨c, ds, hctxv, hcfg, hlens, hcreates⟩ := execSetkey_cases s
  · cases hfails.symm.trans h
    exact .inl (SameContext.raise (u := s.keyErased ds) ⟨rfl, rfl⟩ e)
  · cases hcreates.symm.trans h
    exact .inr ⟨hctxv, rfl, rfl, ctxLegal_blobCtx hcfg hlens⟩

/-- Of all instructions only `SETKEY` and `CLRKEY` can change the context. -/
theorem context_of_exec {i : Instr} {s t : State} (h : exec i s = .next t) :
    SameContext s t ∨ (i = .setkey ∧ ContextCreated s t) ∨ (i = .clrkey ∧ ContextCleared t) := by
  cases i with
  | setkey => exact (context_of_execSetkey h).imp_right fun hcreated => .inl ⟨rfl, hcreated⟩
  | clrkey => cases h; exact .inr (.inr ⟨rfl, rfl, rfl⟩)
  | enc => cases h; exact .inl (sameContext_requestSetup s .encrypt)
  | dec => cases h; exact .inl (sameContext_requestSetup s .decrypt)
  | _ => exact .inl (exec_planOp_leaves rfl h).sameContext

/-- What a turn of the sequencer from `s` to `t` did to the context. -/
def TurnContext (s t : State) : Prop :=
  SameContext s t ∨ (s.fetch = .run .setkey ∧ ContextCreated s t) ∨ (s.fetch = .run .clrkey ∧ ContextCleared t)

theorem turnContext_of_sequencerTurn {s t : State} (h : sequencerTurn s = .next t) : TurnContext s t := by
  unfold sequencerTurn at h
  split at h
  · rename_i i hfetch
    obtain hsame | ⟨rfl, hcreated⟩ | ⟨rfl, hcleared⟩ := context_of_exec h
    · exact .inl hsame
    · exact .inr (.inl ⟨hfetch, hcreated⟩)
    · exact .inr (.inr ⟨hfetch, hcleared⟩)
  · cases h; exact .inl (SameContext.raise (u := s) ⟨rfl, rfl⟩ _)
  · cases h; exact .inl ⟨rfl, rfl⟩
  · cases h

/-! The host's operations (R100 to R102). -/

theorem sameContext_hostWriteReg (s : State) (n : Nat) (v : Word) : SameContext s (s.hostWriteReg n v) := by
  unfold State.hostWriteReg
  split
  · exact ⟨rfl, rfl⟩
  · split
    all_goals exact ⟨rfl, rfl⟩

theorem sameContext_hostWriteByte (s : State) (sp : Space) (off : Nat) (b : Byte) :
    SameContext s (s.hostWriteByte sp off b) := by
  unfold State.hostWriteByte
  repeat' split
  all_goals exact ⟨rfl, rfl⟩

theorem sameContext_hostOp (s : State) (op : HostOp) : SameContext s (s.hostOp op) := by
  have hread (hr : (∃ n, op = .readReg n) ∨ (∃ sp off, op = .readByte sp off) ∨ (∃ i, op = .readPlan i)) :
      SameContext s (s.hostOp op) := by
    rw [readsHaveNoEffect s op _ hr rfl]
    exact ⟨rfl, rfl⟩
  cases op with
  | readReg n => exact hread (.inl ⟨n, rfl⟩)
  | writeReg n v => exact sameContext_hostWriteReg s n v
  | readByte sp off => exact hread (.inr (.inl ⟨sp, off, rfl⟩))
  | writeByte sp off b => exact sameContext_hostWriteByte s sp off b
  | readPlan i => exact hread (.inr (.inr ⟨i, rfl⟩))
  | writePlan i w => exact ⟨rfl, rfl⟩

/-! One step. -/

/-- A step does to the context what a turn of the sequencer can do, or it is a reset. -/
theorem context_of_step {s t : State} (h : step s = .next t) :
    TurnContext s t ∨ ∃ rest, s.agenda = .reset :: rest ∧ ContextCleared t := by
  cases hagenda : s.agenda with
  | nil =>
    rw [step_of_agenda_nil hagenda] at h
    exact .inl (turnContext_of_sequencerTurn h)
  | cons event rest =>
    cases event with
    | sequencer =>
      rw [step_of_agenda_sequencer hagenda] at h
      have hturn : TurnContext { s with agenda := rest } t := turnContext_of_sequencerTurn h
      exact .inl hturn
    | host op =>
      rw [step_of_agenda_host hagenda] at h
      cases h
      have hsame : SameContext s (State.hostOp { s with agenda := rest } op) := sameContext_hostOp { s with agenda := rest } op
      exact .inl (.inl hsame)
    | reset =>
      rw [step_of_agenda_reset hagenda] at h
      cases h
      exact .inr ⟨rest, rfl, rfl, rfl⟩

theorem SameContext.ctxOk {s t : State} (h : SameContext s t) (hs : CtxOk s) : CtxOk t := by
  obtain ⟨hctx, hctxv⟩ := h
  rwa [CtxOk, hctx, hctxv]

theorem ContextCreated.ctxOk {s t : State} (h : ContextCreated s t) : CtxOk t := by
  obtain ⟨-, hctxv, -, hlegal⟩ := h
  exact ⟨fun hnone => absurd (hctxv.symm.trans hnone) (by decide), fun _ => hlegal⟩

theorem ContextCleared.ctxOk {t : State} (h : ContextCleared t) : CtxOk t := by
  obtain ⟨hctx, hctxv⟩ := h
  exact ⟨fun _ => hctx, fun hsome => absurd (hctxv.symm.trans hsome) (by decide)⟩

/-- Settles O55: the context is kept, created as a legal one, or cleared to zeros. -/
theorem contextInvariant : Obligations.ContextInvariant := by
  intro s t hs hstep
  obtain (hsame | ⟨-, hcreated⟩ | ⟨-, hcleared⟩) | ⟨-, -, hcleared⟩ := context_of_step hstep
  · exact hsame.ctxOk hs
  · exact hcreated.ctxOk
  · exact hcleared.ctxOk
  · exact hcleared.ctxOk

/-- Settles O56: the same four ways, named by the instruction fetched or the event taken. -/
theorem contextImmutable : Obligations.ContextImmutable := by
  intro s t hstep
  obtain (hsame | ⟨hfetch, hnone, hsome, hok, -⟩ | hclrkey) | hreset := context_of_step hstep
  · exact .inl hsame
  · exact .inr (.inl ⟨hfetch, hnone, hsome, hok⟩)
  · exact .inr (.inr (.inl hclrkey))
  · exact .inr (.inr (.inr hreset))

end Sys2Proof.Machine

/-! The Mode Selector's checks and outputs (`spec/42_mode_selector.md` R140 to R146) and the single-pass verdict (R147 to
R149). -/

namespace Sys2Proof.Machine

open Sys2Proof

/-! The single-pass verdict. -/

/-- `RFC4543` is a wrapper of GCM alone (R84). -/
theorem wrap_ne_rfc4543_of_legalCombo {m : CipherMode} {a : AuthMode} {f : Family} {w : Wrap}
    (h : legalCombo m a f w = true) (hm : m ≠ .gctr) : w ≠ .rfc4543 := by
  rintro rfl
  cases m with
  | gctr => exact hm rfl
  | _ => simp [legalCombo_iff] at h

theorem singlePass_of_rfc4543 {c : Ctx} (hw : c.wrap = .rfc4543) (n aad : Nat) : singlePass c n aad = false :=
  if_pos hw

theorem singlePass_of_ccm {c : Ctx} (hw : c.wrap ≠ .rfc4543) (hm : c.cipherMode = .ccm) (n aad : Nat) :
    singlePass c n aad = true := by
  simp [singlePass, hw, hm]

theorem singlePass_of_gctr {c : Ctx} (hw : c.wrap ≠ .rfc4543) (hm : c.cipherMode = .gctr) (n aad : Nat) :
    singlePass c n aad = true := by
  simp [singlePass, hw, hm]

theorem singlePass_cbc_iff {c : Ctx} (hw : c.wrap ≠ .rfc4543) (hm : c.cipherMode = .cbc) (n aad : Nat) :
    singlePass c n aad = true ↔ 4 ∣ aad := by
  simp [singlePass, hw, hm, Nat.dvd_iff_mod_eq_zero]

theorem singlePass_ctr_iff {c : Ctx} (hw : c.wrap ≠ .rfc4543) (hm : c.cipherMode = .ctr) (n aad : Nat) :
    singlePass c n aad = true ↔ 4 ∣ aad ∧ 4 ∣ n := by
  simp [singlePass, hw, hm, Nat.dvd_iff_mod_eq_zero]

/-- Settles O23, by cipher mode: a legal mode other than GCM is not under `RFC4543`, which alone forces the verdict. -/
theorem singlePassVerdict : Obligations.SinglePassVerdict := by
  intro c n aad hlegal
  have hwrap : c.cipherMode ≠ .gctr → c.wrap ≠ .rfc4543 := wrap_ne_rfc4543_of_legalCombo hlegal
  refine ⟨fun hm => ?_, fun hm hw => singlePass_of_gctr hw hm n aad, fun hm => ?_, fun hw => singlePass_of_rfc4543 hw n aad⟩
  · exact singlePass_of_ccm (hwrap (by simp [hm])) hm n aad
  · obtain hm | hm := hm
    · simpa [hm] using singlePass_cbc_iff (hwrap (by simp [hm])) hm n aad
    · simpa [hm] using singlePass_ctr_iff (hwrap (by simp [hm])) hm n aad

/-! The request's checks, each by its name, and what `modeSelect` answers when one fails and when none does. -/

theorem ivWrapped_iff (w : Wrap) : ivWrapped w = true ↔ w = .rfc4309 ∨ w = .rfc4106 ∨ w = .rfc4543 := by
  cases w <;> decide

/-- `CRYPTLEN` of a request (R141). -/
def payloadLen (c : Ctx) (inlen : Nat) : Dir → Nat
  | .encrypt => inlen
  | .decrypt => inlen - c.tagLen.toNat

theorem payloadLen_eq_ite (c : Ctx) (inlen : Nat) (d : Dir) :
    payloadLen c inlen d = if d = .decrypt then inlen - c.tagLen.toNat else inlen := by
  cases d <;> rfl

/-- A decryption's input does not hold a tag (R142). -/
def TagMissing (c : Ctx) (d : Dir) (inlen : Nat) : Prop :=
  d = .decrypt ∧ inlen < c.tagLen.toNat

/-- A length of the request is over its buffer's capacity (R143). -/
def OverCapacity (caps : Caps) (c : Ctx) (d : Dir) (inlen aadlen : Nat) : Prop :=
  caps.bufCap < inlen ∨ caps.aadCap < aadlen ∨ (d = .encrypt ∧ caps.bufCap < inlen + c.tagLen.toNat)

/-- A CBC payload is not whole blocks (R144). -/
def PayloadRagged (c : Ctx) (d : Dir) (inlen : Nat) : Prop :=
  c.cipherMode = .cbc ∧ ¬ cblock c.family ∣ payloadLen c inlen d

/-- The associated data under an IV-carrying wrapper has no legal length (R145). -/
@[reducible] def AadMalformed (c : Ctx) (aadlen : Nat) : Prop :=
  ivWrapped c.wrap = true ∧ aadlen ≠ 16 ∧ aadlen ≠ 20

/-- `AADEFF` of a request (R146). -/
def effectiveAadLen (c : Ctx) (aadlen : Nat) : Nat :=
  if ivWrapped c.wrap then aadlen - 8 else aadlen

section
variable {caps : Caps} {c : Ctx} {d : Dir} {inlen aadlen : Nat}

theorem payloadRagged_iff_mod :
    PayloadRagged c d inlen ↔ c.cipherMode = .cbc
      ∧ (if d = .decrypt then inlen - c.tagLen.toNat else inlen) % cblock c.family ≠ 0 := by
  rw [PayloadRagged, payloadLen_eq_ite, Nat.dvd_iff_mod_eq_zero]

theorem modeSelect_of_tagMissing (h : TagMissing c d inlen) : modeSelect caps c d inlen aadlen = .error .invalidLength :=
  if_pos h

theorem modeSelect_of_overCapacity (h : OverCapacity caps c d inlen aadlen) :
    modeSelect caps c d inlen aadlen = .error .invalidLength := by
  by_cases hshort : TagMissing c d inlen
  · exact modeSelect_of_tagMissing hshort
  · exact (if_neg hshort).trans (if_pos h)

theorem modeSelect_of_payloadRagged (h : PayloadRagged c d inlen) :
    modeSelect caps c d inlen aadlen = .error .invalidLength := by
  by_cases hshort : TagMissing c d inlen
  · exact modeSelect_of_tagMissing hshort
  by_cases hbig : OverCapacity caps c d inlen aadlen
  · exact modeSelect_of_overCapacity hbig
  · exact (if_neg hshort).trans ((if_neg hbig).trans (if_pos (payloadRagged_iff_mod.mp h)))

/-- Past the length checks (R142 to R144) only the associated data's length and the outputs are left (R145 to R147). -/
theorem modeSelect_of_lengths_ok
    (h : ¬ (TagMissing c d inlen ∨ OverCapacity caps c d inlen aadlen ∨ PayloadRagged c d inlen)) :
    modeSelect caps c d inlen aadlen
      = if AadMalformed c aadlen then .error .invalidAssociatedDataLength
        else .ok { cryptlen := payloadLen c inlen d, aadeff := effectiveAadLen c aadlen,
                   sp := singlePass c (payloadLen c inlen d) (effectiveAadLen c aadlen) } := by
  obtain ⟨hshort, hbig, hragged⟩ := by simpa only [not_or] using h
  rw [payloadLen_eq_ite]
  exact (if_neg hshort).trans ((if_neg hbig).trans (if_neg (payloadRagged_iff_mod.not.mp hragged)))

end

theorem effectiveAadLen_of_wrapped {c : Ctx} (h : ivWrapped c.wrap = true) (aadlen : Nat) :
    effectiveAadLen c aadlen = aadlen - 8 :=
  if_pos h

theorem effectiveAadLen_of_not_wrapped {c : Ctx} (h : ¬ ivWrapped c.wrap = true) (aadlen : Nat) :
    effectiveAadLen c aadlen = aadlen :=
  if_neg h

/-- Settles O22: each length check has its error whatever the others say, and past them one test is left. -/
theorem modeSelect_checks_outputs : Obligations.ModeSelect := by
  intro caps c d inlen aadlen t cryptlen wrapped short big ragged oddAad r
  have hwrapped : ivWrapped c.wrap = true ↔ wrapped := ivWrapped_iff c.wrap
  have hodd : AadMalformed c aadlen ↔ oddAad := and_congr_left' hwrapped
  have hcryptlen : payloadLen c inlen d = cryptlen := by cases d <;> rfl
  have hragged : PayloadRagged c d inlen ↔ ragged := by
    rw [PayloadRagged, hcryptlen]
    rfl
  refine ⟨?_, fun hlengths haad => ?_, fun hlengths haad => ?_⟩
  · rintro (hshort | hbig | hrag)
    · exact modeSelect_of_tagMissing hshort
    · exact modeSelect_of_overCapacity hbig
    · exact modeSelect_of_payloadRagged (hragged.mpr hrag)
  · rw [← hragged] at hlengths
    exact (modeSelect_of_lengths_ok hlengths).trans (if_pos (hodd.mpr haad))
  · rw [← hragged] at hlengths
    have haccept := (modeSelect_of_lengths_ok hlengths).trans (if_neg (hodd.not.mpr haad))
    refine ⟨_, haccept, hcryptlen, fun hw => ?_, fun hw => ?_, rfl⟩
    · exact effectiveAadLen_of_wrapped (hwrapped.mpr hw) aadlen
    · exact effectiveAadLen_of_not_wrapped (hwrapped.not.mpr hw) aadlen

end Sys2Proof.Machine

/-! The Frame Builder (`spec/43_frame_builder.md` R155 to R178): how the registers a frame is made of read back as bytes, and
what `frameBuild` answers, one equation per mode and per check. -/

namespace Sys2Proof.Machine

open Sys2Proof

/-! Blocks made of parts. -/

/-- A slice that starts where the first part ends and runs over the second. -/
theorem slice_append_append {x y z : List Byte} {a b : Nat} (ha : x.length = a) (hb : a + y.length = b) :
    slice (x ++ (y ++ z)) a b = y := by
  rw [slice, List.drop_append_of_le_length ha.ge, List.drop_of_length_le ha.le, List.nil_append]
  exact List.take_left' (by omega)

theorem toBlock_getElem_zero {l : List Byte} {b : Byte} (h : l.head? = some b) : (toBlock l)[0] = b := by
  obtain ⟨t, rfl⟩ := List.head?_eq_some_iff.mp h
  rfl

/-- Flags byte, nonce area and `l` last bytes (R162, R164): the parts that a block of this layout reads back. -/
theorem toBlock_flags_nonce_last {b : Byte} {nonce last : List Byte} {l : Nat} (hlast : last.length = l)
    (hlen : 1 + nonce.length + l = 16) :
    (toBlock (b :: (nonce ++ last)))[0] = b
      ∧ slice (toBlock (b :: (nonce ++ last))).toList 1 (16 - l) = nonce
      ∧ slice (toBlock (b :: (nonce ++ last))).toList (16 - l) 16 = last := by
  have hblock : (toBlock (b :: (nonce ++ last))).toList = [b] ++ (nonce ++ last) :=
    toBlock_toList_eq (by simp only [List.length_cons, List.length_append]; omega)
  refine ⟨toBlock_getElem_zero rfl, ?_, ?_⟩
  · rw [hblock]
    exact slice_append_append rfl (by omega)
  · have happend : [b] ++ (nonce ++ last) = ([b] ++ nonce) ++ (last ++ []) := by simp
    rw [hblock, happend]
    exact slice_append_append (by simp only [List.length_append, List.length_singleton]; omega) (by omega)

/-- A 12-byte nonce in its register, zero-filled (R172). -/
theorem toBlock_nonce_toList {nonce : List Byte} (h : nonce.length = 12) : (toBlock nonce).toList = nonce ++ zeros 4 := by
  have hle : nonce.length ≤ 16 := by omega
  rw [toBlock, toReg_toList_of_le hle, h]

/-! Counters. -/

/-- A block whose last byte is zero is incremented by writing 1 there (R164, R266): no carry leaves that byte. -/
theorem ctr0p1_eq_inc128 {t : Block} {x : List Byte} (h : t.toList = x ++ [0]) : ctr0p1 t = inc128 t := by
  have hlen : x.length = 15 := by
    have hlist := congrArg List.length h
    simpa using hlist.symm
  have hfull : (x ++ [(0x01 : Byte)]).length = 16 := by simp [hlen]
  have hnext : beVal t.toList + 1 = beVal (x ++ [0x01]) := by
    simp [h, beVal_append_single]
  have hlt : beVal (x ++ [0x01]) < 2 ^ 128 := (beVal_lt _).trans_eq (by rw [hfull]; norm_num)
  have hbe : be 16 (beVal (x ++ [0x01])) = x ++ [0x01] := hfull ▸ be_beVal (x ++ [0x01])
  rw [ctr0p1, inc128, hnext, Nat.mod_eq_of_lt hlt, hbe, h, List.take_left' hlen]

/-- A counter block of the GCM frame, as bytes (R173). -/
theorem toBlock_counter_toList {nonce : List Byte} (h : nonce.length = 12) (n : Nat) :
    (toBlock (nonce ++ be 4 n)).toList = nonce ++ be 4 n :=
  toBlock_toList_eq (by simp [h])

/-- The second counter block of GCM is the first one incremented (R173, R267). -/
theorem toBlock_counter_two {nonce : List Byte} (h : nonce.length = 12) :
    toBlock (nonce ++ be 4 2) = inc32 (toBlock (nonce ++ be 4 1)) := by
  have hnext : (beVal (be 4 1) + 1) % 2 ^ 32 = 2 := by rw [beVal_be]; rfl
  rw [inc32, toBlock_counter_toList h, List.take_left' h, List.drop_left' h, hnext]

/-! CBC and CTR (R157 to R159). -/

theorem cbcCiv_toList (c : Ctx) {iv : List Byte} (hiv : iv.length = 16) :
    (cbcCiv c iv).toList = iv.take (cblock c.family) ++ zeros (16 - cblock c.family) := by
  have hblock : cblock c.family ≤ 16 := by cases c.family <;> decide
  have hlen : (iv.take (cblock c.family)).length = cblock c.family := by rw [List.length_take]; omega
  rw [cbcCiv, toBlock, toReg_toList_of_le (hlen.trans_le hblock), hlen]

theorem ctrCiv_toList (c : Ctx) {iv : List Byte} (hiv : iv.length = 16) :
    (ctrCiv c iv).toList = if c.wrap = .rfc3686 then c.nonce.toList ++ iv.take 8 ++ [0, 0, 0, 1] else iv := by
  unfold ctrCiv
  split
  · exact toBlock_toList_eq (by simp [hiv])
  · rw [List.take_of_length_le hiv.le, toBlock_toList_eq hiv]

/-- Settles O28: the frame of either mode is the zero frame with `F.CIV` written, of which `cbcCiv_toList` and
`ctrCiv_toList` say the bytes. -/
theorem civFrame : Obligations.CivFrame := by
  intro c iv cryptlen aadeff hiv hmode
  obtain hcbc | hctr := hmode
  · have hbytes := cbcCiv_toList c hiv
    refine ⟨{ zeroFrame with civ := cbcCiv c iv }, by rw [frameBuild, hcbc], rfl, fun _ haes => ?_, fun _ htdes => ?_,
      fun h => ?_, fun h => ?_⟩
    · rw [hbytes, haes]
      simp [cblock, zeros, ← hiv]
    · rw [hbytes, htdes]
      rfl
    all_goals simp [hcbc] at h
  · have hbytes := ctrCiv_toList c hiv
    refine ⟨{ zeroFrame with civ := ctrCiv c iv }, by rw [frameBuild, hctr], rfl, fun h => ?_, fun h => ?_,
      fun _ hw => hbytes.trans (if_neg hw), fun _ hw => hbytes.trans (if_pos hw)⟩
    all_goals simp [hctr] at h

/-! GCM (R172 to R178). -/

theorem frameBuild_gctr {c : Ctx} (h : c.cipherMode = .gctr) (iv : List Byte) (cryptlen aadeff : Nat) :
    frameBuild c iv cryptlen aadeff = .ok (gcmFrame c iv cryptlen aadeff, 0) := by
  rw [frameBuild, h]

theorem gcmNonce_length (c : Ctx) {iv : List Byte} (hiv : iv.length = 16) : (gcmNonce c iv).length = 12 := by
  unfold gcmNonce
  split <;> simp [hiv]

/-- The halves of the length block (R174, R178), for lengths that leave a 64-bit length in bits. -/
theorem gcmLen_halves (c : Ctx) {cryptlen aadeff : Nat} (hcrypt : cryptlen < 2 ^ 32) (haad : aadeff < 2 ^ 32) :
    (c.wrap ≠ .rfc4543 → beVal ((gcmLen c cryptlen aadeff).toList.take 8) = aadeff * 8
        ∧ beVal ((gcmLen c cryptlen aadeff).toList.drop 8) = cryptlen * 8)
      ∧ (c.wrap = .rfc4543 → beVal ((gcmLen c cryptlen aadeff).toList.take 8) = (aadeff + 8 + cryptlen) * 8
        ∧ (gcmLen c cryptlen aadeff).toList.drop 8 = zeros 8) := by
  refine ⟨fun hw => ?_, fun hw => ?_⟩
  · rw [gcmLen, if_neg hw, toBlock_toList_eq (by simp), List.take_left' (be_length ..), List.drop_left' (be_length ..),
      beVal_be, beVal_be]
    omega
  · rw [gcmLen, if_pos hw, toBlock_toList_eq (by simp), List.take_left' (be_length ..), List.drop_left' (be_length ..),
      beVal_be]
    exact ⟨Nat.mod_eq_of_lt (by omega), rfl⟩

/-- Settles O27: the three blocks of the nonce read back by `toBlock_nonce_toList` and `toBlock_counter_toList`, the lengths by
`gcmLen_halves`. -/
theorem gcmFrame_blocks : Obligations.GcmFrame := by
  intro c iv cryptlen aadeff hmode hiv hcrypt haad
  have hlen := gcmNonce_length c hiv
  have hivx : (gcmFrame c iv cryptlen aadeff).ivx.toList = gcmNonce c iv ++ zeros 4 := toBlock_nonce_toList hlen
  have hnonce : (gcmFrame c iv cryptlen aadeff).ivx.toList.take 12 = gcmNonce c iv := by
    rw [hivx, List.take_left' hlen]
  refine ⟨_, frameBuild_gctr hmode iv cryptlen aadeff, fun hw => ?_, fun hw => ?_, ?_, ?_, toBlock_counter_two hlen,
    gcmLen_halves c hcrypt haad⟩
  · rw [hivx, gcmNonce, if_pos hw]
  · rw [hivx, gcmNonce, if_neg hw]
  · rw [hnonce]
    exact toBlock_counter_toList hlen 1
  · rw [hnonce]
    exact toBlock_counter_toList hlen 2

/-! CCM (R160 to R168). -/

theorem frameBuild_ccm {c : Ctx} (h : c.cipherMode = .ccm) (iv : List Byte) (cryptlen aadeff : Nat) :
    frameBuild c iv cryptlen aadeff = ccmFrame c iv cryptlen aadeff := by
  rw [frameBuild, h]

theorem ccmFrame_of_invalidIv {c : Ctx} {iv : List Byte} (h : ccmLp (ccmIvx c iv) < 1 ∨ 7 < ccmLp (ccmIvx c iv))
    (cryptlen aadeff : Nat) : ccmFrame c iv cryptlen aadeff = .error .invalidIvFormat :=
  if_pos h

theorem ccmFrame_of_overflow {c : Ctx} {iv : List Byte} {cryptlen : Nat}
    (hlp : ¬ (ccmLp (ccmIvx c iv) < 1 ∨ 7 < ccmLp (ccmIvx c iv)))
    (h : ccmLp (ccmIvx c iv) + 1 < 4 ∧ 2 ^ (8 * (ccmLp (ccmIvx c iv) + 1)) ≤ cryptlen) (aadeff : Nat) :
    ccmFrame c iv cryptlen aadeff = .error .lengthOverflow :=
  (if_neg hlp).trans (if_pos h)

/-- The frame that passes both checks (R160 to R164). -/
theorem ccmFrame_of_checks {c : Ctx} {iv : List Byte} {cryptlen : Nat}
    (hlp : ¬ (ccmLp (ccmIvx c iv) < 1 ∨ 7 < ccmLp (ccmIvx c iv)))
    (h : ¬ (ccmLp (ccmIvx c iv) + 1 < 4 ∧ 2 ^ (8 * (ccmLp (ccmIvx c iv) + 1)) ≤ cryptlen)) (aadeff : Nat) :
    ccmFrame c iv cryptlen aadeff
      = .ok ({ zeroFrame with ivx := ccmIvx c iv, b0 := ccmB0 (ccmIvx c iv) c.tagLen.toNat aadeff cryptlen,
                              a0 := toBlock (ccmA0 aadeff), ctr0 := ccmCtr0 (ccmIvx c iv) },
             BitVec.ofNat 3 (ccmA0 aadeff).length) :=
  (if_neg hlp).trans (if_neg h)

/-- What a CCM frame tells of the checks it passed (R161, R162) and of `F.IVX` (R160). -/
theorem checks_of_ccm {c : Ctx} {iv : List Byte} {cryptlen aadeff : Nat} {f : Frame} {a0len : BitVec 3}
    (h : frameBuild c iv cryptlen aadeff = .ok (f, a0len)) (hmode : c.cipherMode = .ccm) :
    f.ivx = ccmIvx c iv ∧ 1 ≤ ccmLp (ccmIvx c iv) ∧ ccmLp (ccmIvx c iv) ≤ 7
      ∧ (ccmLp (ccmIvx c iv) + 1 < 4 → cryptlen < 2 ^ (8 * (ccmLp (ccmIvx c iv) + 1))) := by
  rw [frameBuild_ccm hmode] at h
  by_cases hlp : ccmLp (ccmIvx c iv) < 1 ∨ 7 < ccmLp (ccmIvx c iv)
  · rw [ccmFrame_of_invalidIv hlp] at h
    cases h
  by_cases hover : ccmLp (ccmIvx c iv) + 1 < 4 ∧ 2 ^ (8 * (ccmLp (ccmIvx c iv) + 1)) ≤ cryptlen
  · rw [ccmFrame_of_overflow hlp hover] at h
    cases h
  · rw [ccmFrame_of_checks hlp hover] at h
    cases h
    exact ⟨rfl, by omega, by omega, fun hl => Nat.lt_of_not_le fun hle => hover ⟨hl, hle⟩⟩

/-! `F.IVX` and `L'` (R160, R161, R168). -/

theorem ccmLp_eq (ivx : Block) : ccmLp ivx = ivx[0].toNat := by
  simp [ccmLp, List.headD_eq_head?_getD, List.head?_eq_getElem?]

/-- `L'` is the IV's first byte, or 3 under RFC 4309. -/
theorem ccmLp_ccmIvx (c : Ctx) {iv : List Byte} {b : Byte} (h : iv.head? = some b) :
    ccmLp (ccmIvx c iv) = if c.wrap = .rfc4309 then 3 else b.toNat := by
  rw [ccmLp_eq, ccmIvx]
  split
  · rw [toBlock_getElem_zero (b := 0x03) rfl]
    rfl
  · rw [toBlock_getElem_zero (b := b) (by simp [List.head?_take, h])]

theorem ccmIvx_toList (c : Ctx) {iv : List Byte} (hiv : iv.length = 16) :
    (ccmIvx c iv).toList
      = if c.wrap = .rfc4309 then [0x03] ++ c.nonce.toList.take 3 ++ iv.take 8 ++ zeros 4 else iv := by
  unfold ccmIvx
  split
  · exact toBlock_toList_eq (by simp [hiv])
  · rw [List.take_of_length_le hiv.le, toBlock_toList_eq hiv]

/-- Settles O25: with `L'` read off the first IV byte, the three clauses are the three equations of `ccmFrame`. -/
theorem ccmFrameErrors : Obligations.CcmFrameErrors := by
  intro c iv cryptlen aadeff b hmode hhead lp
  have hlp : ccmLp (ccmIvx c iv) = lp := ccmLp_ccmIvx c hhead
  rw [frameBuild_ccm hmode, ← hlp]
  refine ⟨fun h => ccmFrame_of_invalidIv h cryptlen aadeff, fun hlo hhi h => ?_, fun hlo hhi h => ?_⟩
  · exact ccmFrame_of_overflow (by omega) h aadeff
  · exact ⟨_, _, ccmFrame_of_checks (by omega) h aadeff⟩

/-! `F.B0` and `F.CTR0` (R162, R164). -/

theorem ccmNonce_length {ivx : Block} (h : ccmLp ivx ≤ 7) :
    1 + (ccmNonce ivx).length + (ccmLp ivx + 1) = 16 := by
  rw [ccmNonce, slice_length, Vector.length_toList]
  omega

/-- The flags byte is the sum of its three fields, whose bits are apart (R162). -/
theorem ccmFlags_toNat (aadeff : Nat) {tagLen lp : Nat} (htag : (tagLen - 2) / 2 < 8) (hlp : lp < 8) :
    (ccmFlags aadeff tagLen lp).toNat = (if 0 < aadeff then 64 else 0) + (tagLen - 2) / 2 * 8 + lp := by
  have hfields : ∀ m < 8, ∀ n < 8, (0x40#8 ||| BitVec.ofNat 8 m <<< 3 ||| BitVec.ofNat 8 n).toNat = 64 + m * 8 + n
      ∧ (0x00#8 ||| BitVec.ofNat 8 m <<< 3 ||| BitVec.ofNat 8 n).toNat = 0 + m * 8 + n := by decide
  obtain ⟨haad, hnone⟩ := hfields _ htag lp hlp
  unfold ccmFlags
  split
  · exact haad
  · exact hnone

theorem tagField_lt_of_legal {a : AuthMode} {t : Nat} (h : legalTagLen .ccm a t = true) : (t - 2) / 2 < 8 := by
  simp only [legalTagLen, Bool.and_eq_true, decide_eq_true_eq] at h
  omega

theorem ccmB0_parts {ivx : Block} (h : ccmLp ivx ≤ 7) (tagLen aadeff cryptlen : Nat) :
    (ccmB0 ivx tagLen aadeff cryptlen)[0] = ccmFlags aadeff tagLen (ccmLp ivx)
      ∧ slice (ccmB0 ivx tagLen aadeff cryptlen).toList 1 (16 - (ccmLp ivx + 1)) = ccmNonce ivx
      ∧ slice (ccmB0 ivx tagLen aadeff cryptlen).toList (16 - (ccmLp ivx + 1)) 16 = be (ccmLp ivx + 1) cryptlen :=
  toBlock_flags_nonce_last (be_length ..) (ccmNonce_length h)

theorem ccmCtr0_parts {ivx : Block} (h : ccmLp ivx ≤ 7) :
    (ccmCtr0 ivx)[0] = BitVec.ofNat 8 (ccmLp ivx)
      ∧ slice (ccmCtr0 ivx).toList 1 (16 - (ccmLp ivx + 1)) = ccmNonce ivx
      ∧ slice (ccmCtr0 ivx).toList (16 - (ccmLp ivx + 1)) 16 = zeros (ccmLp ivx + 1) :=
  toBlock_flags_nonce_last (zeros_length _) (ccmNonce_length h)

/-- `F.CTR0` ends with a zero byte, since the counter has one byte at least. -/
theorem ctr0p1_ccmCtr0 {ivx : Block} (h : ccmLp ivx ≤ 7) : ctr0p1 (ccmCtr0 ivx) = inc128 (ccmCtr0 ivx) := by
  have hnonce := ccmNonce_length h
  apply ctr0p1_eq_inc128 (x := BitVec.ofNat 8 (ccmLp ivx) :: (ccmNonce ivx ++ zeros (ccmLp ivx)))
  rw [ccmCtr0, toBlock_toList_eq (by simp only [List.length_cons, List.length_append, zeros_length]; omega), zeros,
    List.replicate_succ', ← zeros]
  simp only [List.cons_append, List.append_assoc]

/-- The payload length is read back from its `L` bytes: it fits them by the overflow check, or because four bytes hold it. -/
theorem beVal_be_of_fits {l n : Nat} (hn : n < 2 ^ 32) (hfit : l < 4 → n < 2 ^ (8 * l)) : beVal (be l n) = n := by
  rw [beVal_be]
  apply Nat.mod_eq_of_lt
  have hpow : 256 ^ l = 2 ^ (8 * l) := by rw [pow_mul]; norm_num
  rw [hpow]
  obtain hl | hl := Nat.lt_or_ge l 4
  · exact hfit hl
  · exact hn.trans_le (Nat.pow_le_pow_right (by norm_num) (by omega))

/-- Settles O24: the parts of `F.B0` and `F.CTR0` are read off their layout, the flags and the length as numbers. -/
theorem ccmFrame_blocks : Obligations.CcmFrame := by
  intro c iv cryptlen aadeff f a0len hmode htag hiv hcrypt haad h l
  obtain ⟨hivx, hlo, hhi, hfit⟩ := checks_of_ccm h hmode
  obtain ⟨hb0, -, hctr0, -⟩ := frame_of_ccm h hmode
  have hl : l = ccmLp (ccmIvx c iv) + 1 := by rw [ccmLp_eq, ← hivx]
  obtain ⟨hflags, hb0Nonce, hb0Last⟩ := ccmB0_parts hhi c.tagLen.toNat aadeff cryptlen
  obtain ⟨hctr0Flags, hctr0Nonce, hctr0Last⟩ := ccmCtr0_parts hhi
  have hbytes := ccmIvx_toList c hiv
  rw [hl, hb0, hctr0, hivx]
  refine ⟨by omega, by omega, ?_, hb0Nonce, ?_, ?_, hctr0Nonce, hctr0Last, ctr0p1_ccmCtr0 hhi,
    fun hw => hbytes.trans (if_pos hw), fun hw => hbytes.trans (if_neg hw)⟩
  · rw [hflags]
    exact ccmFlags_toNat aadeff (tagField_lt_of_legal htag) (by omega)
  · rw [hb0Last]
    exact beVal_be_of_fits hcrypt hfit
  · rw [hctr0Flags, BitVec.toNat_ofNat]
    exact Nat.mod_eq_of_lt (by omega)

/-! `F.A0` (R163). -/

theorem ccmA0_of_no_aad : ccmA0 0 = [] := rfl

theorem ccmA0_short {aadeff : Nat} (hpos : 0 < aadeff) (h : aadeff < 0xFF00) : ccmA0 aadeff = be 2 aadeff :=
  (if_neg hpos.ne').trans (if_pos h)

theorem ccmA0_long {aadeff : Nat} (h : 0xFF00 ≤ aadeff) : ccmA0 aadeff = [0xFF, 0xFE] ++ be 4 aadeff :=
  (if_neg (by omega)).trans (if_neg (by omega))

/-- The header in its register: its bytes and zeros. -/
theorem toBlock_ccmA0_toList (aadeff : Nat) :
    (toBlock (ccmA0 aadeff)).toList = ccmA0 aadeff ++ zeros (16 - (ccmA0 aadeff).length) :=
  toReg_toList_of_le ((ccmA0_length_le aadeff).trans (by norm_num))

/-- Settles O26: one clause per length of the header, each read off `F.A0` as the header and its zero fill. -/
theorem ccmLengthHeader : Obligations.CcmLengthHeader := by
  intro c iv cryptlen aadeff f a0len hmode haad h
  obtain ⟨hb0, ha0, -, ha0len⟩ := frame_of_ccm h hmode
  have hbytes := toBlock_ccmA0_toList aadeff
  rw [ha0, ha0len, hbytes]
  refine ⟨?_, fun hpos hshort => ?_, fun hlong => ?_⟩
  · rintro rfl
    refine ⟨rfl, rfl, fun htag => Nat.testBit_lt_two_pow (i := 6) ?_⟩
    obtain ⟨-, -, hhi, -⟩ := checks_of_ccm h hmode
    obtain ⟨hflags, -, -⟩ := ccmB0_parts hhi c.tagLen.toNat 0 cryptlen
    have hfield := tagField_lt_of_legal htag
    rw [hb0, hflags, ccmFlags_toNat 0 hfield (by omega), if_neg (lt_irrefl 0)]
    omega
  · rw [ccmA0_short hpos hshort, be_length, List.take_left' (be_length ..), List.drop_left' (be_length ..), beVal_be]
    exact ⟨rfl, Nat.mod_eq_of_lt (by omega), rfl⟩
  · have hlen : ([0xFF, 0xFE] ++ be 4 aadeff).length = 6 := by simp
    have hnumber : slice ([0xFF, 0xFE] ++ (be 4 aadeff ++ zeros 10)) 2 6 = be 4 aadeff :=
      slice_append_append rfl (by rw [be_length])
    rw [ccmA0_long hlong, hlen, List.drop_left' hlen, List.append_assoc, hnumber, beVal_be]
    exact ⟨rfl, rfl, Nat.mod_eq_of_lt (by omega), rfl⟩

end Sys2Proof.Machine

/-! What is in a plan (`spec/44_plan_generation.md` R185 to R208): the six kinds of plan of R186, and the parts they are put
together from. -/

namespace Sys2Proof.Machine

open Sys2Proof

/-- The kinds of plan (R186), each for the contexts, the direction and the verdict that get it. -/
inductive PlanOf (c : Ctx) (cryptlen aadeff a0len : Nat) : Dir → Bool → List Instr → Prop
  | single {d : Dir} (hmode : c.cipherMode = .cbc ∨ c.cipherMode = .ctr) :
    PlanOf c cryptlen aadeff a0len d true (planSingle c d cryptlen aadeff)
  | doubleEnc (hmode : c.cipherMode = .cbc ∨ c.cipherMode = .ctr) :
    PlanOf c cryptlen aadeff a0len .encrypt false (planDoubleEnc c cryptlen aadeff)
  | doubleDec (hmode : c.cipherMode = .cbc ∨ c.cipherMode = .ctr) :
    PlanOf c cryptlen aadeff a0len .decrypt false (planDoubleDec c cryptlen aadeff)
  | ccm {d : Dir} {sp : Bool} (hmode : c.cipherMode = .ccm) :
    PlanOf c cryptlen aadeff a0len d sp (planCcm d cryptlen aadeff a0len)
  | gcm {d : Dir} {sp : Bool} (hmode : c.cipherMode = .gctr) (hwrap : c.wrap ≠ .rfc4543) :
    PlanOf c cryptlen aadeff a0len d sp (planGcm d cryptlen aadeff)
  | gmac {d : Dir} {sp : Bool} (hmode : c.cipherMode = .gctr) (hwrap : c.wrap = .rfc4543) :
    PlanOf c cryptlen aadeff a0len d sp (planGmac d cryptlen aadeff)

theorem planOf_of_separate_mac {c : Ctx} (hmode : c.cipherMode = .cbc ∨ c.cipherMode = .ctr) (d : Dir) (sp : Bool)
    (cryptlen aadeff a0len : Nat) : PlanOf c cryptlen aadeff a0len d sp (planGen c d sp cryptlen aadeff a0len) := by
  cases sp with
  | true => rw [planGen_of_single hmode]; exact .single hmode
  | false =>
    cases d with
    | encrypt => rw [planGen_of_double_encrypt hmode]; exact .doubleEnc hmode
    | decrypt => rw [planGen_of_double_decrypt hmode]; exact .doubleDec hmode

theorem planOf_planGen (c : Ctx) (d : Dir) (sp : Bool) (cryptlen aadeff a0len : Nat) :
    PlanOf c cryptlen aadeff a0len d sp (planGen c d sp cryptlen aadeff a0len) := by
  cases hmode : c.cipherMode with
  | cbc => exact planOf_of_separate_mac (.inl hmode) ..
  | ctr => exact planOf_of_separate_mac (.inr hmode) ..
  | ccm =>
    simp only [planGen, hmode]
    exact .ccm hmode
  | gctr =>
    simp only [planGen, hmode]
    split
    · exact .gmac hmode ‹_›
    · exact .gcm hmode ‹_›

/-! The parts of a plan: what is emitted under a condition, and the MAC's sequences (R187). -/

theorem filter_emitIf (p : Instr → Bool) (b : Bool) (l : List Instr) : (emitIf b l).filter p = emitIf b (l.filter p) := by
  cases b <;> rfl

@[simp] theorem emitIf_nil (b : Bool) : emitIf b [] = [] := by
  cases b <;> rfl

@[simp] theorem emitIf_false (l : List Instr) : emitIf false l = [] := rfl

theorem isHmac_iff {a : AuthMode} : isHmac a = true ↔ a = .hmacSha1 ∨ a = .hmacSha256 := by
  cases a <;> simp [isHmac]

theorem macLoad_of_hmac {c : Ctx} (h : isHmac c.authMode = true) : macLoad c = [.stldMeIpad] := if_pos h

theorem macLoad_of_not_hmac {c : Ctx} (h : ¬ isHmac c.authMode = true) : macLoad c = [.keyldMeXcbc, .stldMeZero] := if_neg h

theorem macFinish_of_hmac {c : Ctx} (h : isHmac c.authMode = true) :
    macFinish c = [.hfin, .hext .digs, .stldMeOpad, .habs .digs 0, .hfin, .hext .tags] := if_pos h

theorem macFinish_of_not_hmac {c : Ctx} (h : ¬ isHmac c.authMode = true) : macFinish c = [.hfin, .hext .tags] := if_neg h

/-- The operations the MAC's two sequences are made of (R187). -/
def macOps : List Instr :=
  [.stldMeIpad, .keyldMeXcbc, .stldMeZero, .hfin, .hext .digs, .stldMeOpad, .habs .digs 0, .hext .tags]

theorem macLoad_subset_macOps (c : Ctx) : macLoad c ⊆ macOps := by
  by_cases h : isHmac c.authMode = true
  · rw [macLoad_of_hmac h]; decide
  · rw [macLoad_of_not_hmac h]; decide

theorem macFinish_subset_macOps (c : Ctx) : macFinish c ⊆ macOps := by
  by_cases h : isHmac c.authMode = true
  · rw [macFinish_of_hmac h]; decide
  · rw [macFinish_of_not_hmac h]; decide

/-! Lengths (R207). -/

/-- The cipher's two loads, the MAC's two sequences and the tag step. -/
theorem macLoad_macFinish_length (c : Ctx) :
    (macLoad c).length + (macFinish c).length + 3 = if isHmac c.authMode then 10 else 7 := by
  by_cases h : isHmac c.authMode = true
  · rw [macLoad_of_hmac h, macFinish_of_hmac h, if_pos h]; rfl
  · rw [macLoad_of_not_hmac h, macFinish_of_not_hmac h, if_neg h]; rfl

/-- 1 where the range holds a byte, 0 where it is empty. -/
def present (n : Nat) : Nat := if 0 < n then 1 else 0

theorem present_le (n : Nat) : present n ≤ 1 := by
  unfold present; split <;> omega

theorem present_of_pos {n : Nat} (h : 0 < n) : present n = 1 := if_pos h

theorem emitIf_pos_length (n : Nat) (l : List Instr) : (emitIf (decide (0 < n)) l).length = l.length * present n := by
  by_cases h : 0 < n <;> simp [emitIf, present, h]

/-- The number of operations of a plan, by its mode and verdict and by which ranges are there (R207). -/
def planLength (c : Ctx) (sp : Bool) (payload aad : Nat) : Nat :=
  match c.cipherMode with
  | .cbc | .ctr => (if isHmac c.authMode then 10 else 7) + aad + (if sp then payload else 2 * payload)
  | .ccm => 8 + 2 * aad + payload
  | .gctr => if c.wrap = .rfc4543 then 10 + 2 * payload else 10 + aad + payload

theorem planLength_of_separate_mac {c : Ctx} (hmode : c.cipherMode = .cbc ∨ c.cipherMode = .ctr) (sp : Bool)
    (payload aad : Nat) : planLength c sp payload aad
      = (if isHmac c.authMode then 10 else 7) + aad + (if sp then payload else 2 * payload) := by
  obtain h | h := hmode <;> simp only [planLength, h]

theorem PlanOf.length_eq {c : Ctx} {cryptlen aadeff a0len : Nat} {d : Dir} {sp : Bool} {plan : List Instr}
    (h : PlanOf c cryptlen aadeff a0len d sp plan) : plan.length = planLength c sp (present cryptlen) (present aadeff) := by
  cases h with
  | single hmode =>
    simp only [planLength_of_separate_mac hmode, ← macLoad_macFinish_length, planSingle, List.length_append, List.length_cons,
      List.length_nil, cipherLoad_length, emitIf_pos_length, if_true]
    omega
  | doubleEnc hmode =>
    simp only [planLength_of_separate_mac hmode, ← macLoad_macFinish_length, planDoubleEnc, List.length_append, List.length_cons,
      List.length_nil, cipherLoad_length, emitIf_pos_length, Bool.false_eq_true, if_false]
    omega
  | doubleDec hmode =>
    simp only [planLength_of_separate_mac hmode, ← macLoad_macFinish_length, planDoubleDec, List.length_append, List.length_cons,
      List.length_nil, cipherLoad_length, emitIf_pos_length, Bool.false_eq_true, if_false]
    omega
  | ccm hmode =>
    simp only [planLength, hmode, planCcm, List.length_append, List.length_cons, List.length_nil, emitIf_pos_length]
    omega
  | gcm hmode hwrap =>
    simp only [planLength, hmode, if_neg hwrap, planGcm, List.length_append, List.length_cons, List.length_nil,
      emitIf_pos_length]
    omega
  | gmac hmode hwrap =>
    simp only [planLength, hmode, if_pos hwrap, planGmac, List.length_append, List.length_cons, List.length_nil,
      emitIf_pos_length]
    omega

theorem planGen_length_eq (c : Ctx) (d : Dir) (sp : Bool) (cryptlen aadeff a0len : Nat) :
    (planGen c d sp cryptlen aadeff a0len).length = planLength c sp (present cryptlen) (present aadeff) :=
  (planOf_planGen c d sp cryptlen aadeff a0len).length_eq

/-- R207's outer bounds, for every tuple. -/
theorem planLength_bounds (c : Ctx) (sp : Bool) {payload aad : Nat} (hpayload : payload ≤ 1) (haad : aad ≤ 1) :
    7 ≤ planLength c sp payload aad ∧ planLength c sp payload aad ≤ 13 := by
  unfold planLength
  split
  case h_1 | h_2 => split <;> split <;> omega
  case h_3 => omega
  case h_4 => split <;> omega

/-- Settles O29: every bound is one of the number of operations, by mode and verdict. -/
theorem planLengths : Obligations.PlanLengths := by
  intro c d sp cryptlen aadeff a0len _ n keyed hmac
  have hn : n = planLength c sp (present cryptlen) (present aadeff) := planGen_length_eq ..
  have hpayload := present_le cryptlen
  have haad := present_le aadeff
  have hsome : 0 < cryptlen ∨ 0 < aadeff → 1 ≤ present cryptlen + present aadeff := by
    rintro (h | h) <;> rw [present_of_pos h] <;> omega
  obtain ⟨hlow, hhigh⟩ := hn ▸ planLength_bounds c sp hpayload haad
  have hhmac (hmode : keyed) (hauth : hmac) :
      n = 10 + present aadeff + (if sp then present cryptlen else 2 * present cryptlen) := by
    rw [hn, planLength_of_separate_mac hmode, if_pos (isHmac_iff.mpr hauth)]
  have hxcbc (hmode : keyed) (hauth : c.authMode = .xcbc) :
      n = 7 + present aadeff + (if sp then present cryptlen else 2 * present cryptlen) := by
    rw [hn, planLength_of_separate_mac hmode, hauth]
    rfl
  refine ⟨hlow, hhigh, fun hmode hauth hsp => ?_, fun hmode hauth hsp => ?_, fun hmode hauth hsp => ?_,
    fun hmode hauth hsp => ?_, fun hmode => ?_, fun hmode hwrap => ?_, fun hmode hwrap => ?_⟩
  · have hlen := hhmac hmode hauth
    rw [hsp, if_pos rfl] at hlen
    omega
  · have hlen := hxcbc hmode hauth
    rw [hsp, if_pos rfl] at hlen
    omega
  · have hlen := hhmac hmode hauth
    rw [hsp, if_neg Bool.false_ne_true] at hlen
    refine ⟨by omega, by omega, fun h => ?_⟩
    have := hsome h
    omega
  · have hlen := hxcbc hmode hauth
    rw [hsp, if_neg Bool.false_ne_true] at hlen
    refine ⟨by omega, by omega, fun h => ?_⟩
    have := hsome h
    omega
  · simp only [planLength, hmode] at hn
    omega
  · simp only [planLength, hmode, if_neg hwrap] at hn
    omega
  · simp only [planLength, hmode, if_pos hwrap] at hn
    omega

/-! The tag's steps (R204): in every plan the same few operations, in the same order. -/

/-- The operations that take a digest out of the MAC engine or hand over the tag. -/
def isTagOp : Instr → Bool
  | .hext _ | .tagout _ => true
  | _ => false

theorem filter_isTagOp_macLoad (c : Ctx) : (macLoad c).filter isTagOp = [] := by
  by_cases h : isHmac c.authMode = true
  · rw [macLoad_of_hmac h]; rfl
  · rw [macLoad_of_not_hmac h]; rfl

theorem filter_isTagOp_macFinish (c : Ctx) :
    (macFinish c).filter isTagOp = emitIf (isHmac c.authMode) [.hext .digs] ++ [.hext .tags] := by
  by_cases h : isHmac c.authMode = true
  · rw [macFinish_of_hmac h, h]; rfl
  · rw [macFinish_of_not_hmac h, Bool.eq_false_of_not_eq_true h]; rfl

theorem filter_isTagOp_cipherLoad (c : Ctx) (d : Dir) : (cipherLoad c d).filter isTagOp = [] := rfl

/-- A plan whose tag steps are one `HEXT DIGS` if there is an inner digest, one `HEXT TAGS`, and the request's `TAGOUT`, which
is its end. -/
def HasTagSteps (d : Dir) (inner : Bool) (plan : List Instr) : Prop :=
  ∃ body, plan = body ++ [tagStep d] ∧ body.filter isTagOp = emitIf inner [.hext .digs] ++ [.hext .tags]

/-- There is an inner digest where a separate MAC is HMAC (R187). -/
theorem PlanOf.hasTagSteps {c : Ctx} {cryptlen aadeff a0len : Nat} {d : Dir} {sp : Bool} {plan : List Instr}
    (h : PlanOf c cryptlen aadeff a0len d sp plan) :
    HasTagSteps d ((c.cipherMode = .cbc ∨ c.cipherMode = .ctr) ∧ isHmac c.authMode = true) plan := by
  have hload := filter_isTagOp_macLoad c
  have hfinish := filter_isTagOp_macFinish c
  have hcipher := filter_isTagOp_cipherLoad c
  cases h with
  | single hmode => exact ⟨_, rfl, by simp [hmode, hload, hfinish, hcipher, filter_emitIf, isTagOp]⟩
  | doubleEnc hmode => exact ⟨_, rfl, by simp [hmode, hload, hfinish, hcipher, filter_emitIf, isTagOp]⟩
  | doubleDec hmode => exact ⟨_, rfl, by simp [hmode, hload, hfinish, hcipher, filter_emitIf, isTagOp]⟩
  | ccm hmode =>
    exact ⟨_, (List.append_assoc _ [.hext .tags, .ctag .ctr0] [tagStep d]).symm,
      by simp [hmode, List.filter_cons, filter_emitIf, isTagOp]⟩
  | gcm hmode =>
    exact ⟨_, (List.append_assoc _ [.habs .lenblk 0, .hext .tags, .ctag .j1] [tagStep d]).symm,
      by simp [hmode, List.filter_cons, filter_emitIf, isTagOp]⟩
  | gmac hmode =>
    exact ⟨_, (List.append_assoc _ [.habs .lenblk 0, .hext .tags, .ctag .j1] [tagStep d]).symm,
      by simp [hmode, List.filter_cons, filter_emitIf, isTagOp]⟩

/-- What a request's `TAGOUT` does with the tag (R204). -/
def tagMode : Dir → TagMode
  | .encrypt => .store
  | .decrypt => .cmp

theorem tagStep_eq (d : Dir) : tagStep d = .tagout (tagMode d) := by
  cases d <;> rfl

section

variable {d : Dir} {inner : Bool} {plan : List Instr}

theorem HasTagSteps.count_hext (h : HasTagSteps d inner plan) (dst : ExtDst) :
    plan.count (.hext dst) = (emitIf inner [Instr.hext .digs] ++ [Instr.hext .tags]).count (.hext dst) := by
  obtain ⟨body, hplan, hbody⟩ := h
  have hlast : [tagStep d].count (.hext dst) = 0 := by simp [tagStep_eq]
  rw [hplan, List.count_append, hlast, ← hbody, List.count_filter rfl, Nat.add_zero]

theorem HasTagSteps.count_tags (h : HasTagSteps d inner plan) : plan.count (.hext .tags) = 1 := by
  rw [h.count_hext]
  cases inner <;> rfl

theorem HasTagSteps.count_digs (h : HasTagSteps d inner plan) : plan.count (.hext .digs) = if inner then 1 else 0 := by
  rw [h.count_hext]
  cases inner <;> rfl

theorem HasTagSteps.tagout_last (h : HasTagSteps d inner plan) :
    ∃ pre, plan = pre ++ [tagStep d] ∧ ∀ m, Instr.tagout m ∉ pre := by
  obtain ⟨body, hplan, hbody⟩ := h
  refine ⟨body, hplan, fun m hm => ?_⟩
  have hmem : Instr.tagout m ∈ emitIf inner [.hext .digs] ++ [.hext .tags] := hbody ▸ List.mem_filter.mpr ⟨hm, rfl⟩
  cases inner <;> simp [emitIf] at hmem

end

/-- Settles O30: the counts and the end are those of the tag steps. -/
theorem planTagSteps : Obligations.PlanTagSteps := by
  intro c d sp cryptlen aadeff a0len plan keyed hmac
  have hsteps : HasTagSteps d _ plan := (planOf_planGen c d sp cryptlen aadeff a0len).hasTagSteps
  have hinner : keyed ∧ isHmac c.authMode = true ↔ keyed ∧ hmac := and_congr_right' isHmac_iff
  refine ⟨hsteps.count_tags, fun h => ?_, fun h => ?_, ?_⟩
  · rw [hsteps.count_digs, if_pos (decide_eq_true (hinner.mpr h))]
  · rw [hsteps.count_digs, if_neg (by simpa using mt hinner.mp h)]
  · obtain ⟨pre, hplan, hpre⟩ := hsteps.tagout_last
    refine ⟨pre, hplan.trans ?_, hpre⟩
    cases d <;> rfl

/-! Which operations a plan may hold (R192, R205). -/

/-- Operations over the payload and over associated data stand only where the range does, and a `FUSE` absorbs the given side. -/
def Ranged (side : Side) (payload aad : Prop) : Instr → Prop
  | .capp | .copy | .habs .pin _ | .habs .pout _ => payload
  | .fuse s _ => payload ∧ s = side
  | .habs .aad _ | .habs .a0 _ => aad
  | _ => True

/-- A plan operation that has an encoding and is `Ranged`. -/
def Permitted (side : Side) (payload aad : Prop) (i : Instr) : Prop :=
  (i.wellFormed = true ∧ i.format = .opw) ∧ Ranged side payload aad i

/-- Every operation of a sequence is permitted. -/
def AllPermitted (side : Side) (payload aad : Prop) (l : List Instr) : Prop := ∀ i ∈ l, Permitted side payload aad i

section

variable {side : Side} {payload aad : Prop}

@[simp] theorem allPermitted_nil : AllPermitted side payload aad [] := nofun

@[simp] theorem allPermitted_cons {i : Instr} {l : List Instr} :
    AllPermitted side payload aad (i :: l) ↔ Permitted side payload aad i ∧ AllPermitted side payload aad l :=
  List.forall_mem_cons

@[simp] theorem allPermitted_append {l l' : List Instr} :
    AllPermitted side payload aad (l ++ l') ↔ AllPermitted side payload aad l ∧ AllPermitted side payload aad l' :=
  List.forall_mem_append

@[simp] theorem allPermitted_emitIf {b : Bool} {l : List Instr} :
    AllPermitted side payload aad (emitIf b l) ↔ (b = true → AllPermitted side payload aad l) := by
  cases b <;> simp [emitIf]

theorem allPermitted_macOps : AllPermitted side payload aad macOps := by
  simp [AllPermitted, macOps, Permitted, Ranged, Instr.wellFormed, Instr.format, padOk]

@[simp] theorem allPermitted_macLoad (c : Ctx) : AllPermitted side payload aad (macLoad c) :=
  fun i hi => allPermitted_macOps i (macLoad_subset_macOps c hi)

@[simp] theorem allPermitted_macFinish (c : Ctx) : AllPermitted side payload aad (macFinish c) :=
  fun i hi => allPermitted_macOps i (macFinish_subset_macOps c hi)

@[simp] theorem allPermitted_cipherLoad (c : Ctx) (d : Dir) : AllPermitted side payload aad (cipherLoad c d) := by
  simp [AllPermitted, cipherLoad, Permitted, Ranged, Instr.wellFormed, Instr.format]

end

/-- The side a mode's `FUSE` absorbs (R192). -/
def fuseSide (c : Ctx) (d : Dir) : Side := if c.cipherMode = .ccm then plainSide d else cipherSide d

theorem fuseSide_of_ccm {c : Ctx} (h : c.cipherMode = .ccm) (d : Dir) : fuseSide c d = plainSide d := if_pos h

theorem fuseSide_of_ne_ccm {c : Ctx} (h : c.cipherMode ≠ .ccm) (d : Dir) : fuseSide c d = cipherSide d := if_neg h

theorem fuseSide_of_separate_mac {c : Ctx} (hmode : c.cipherMode = .cbc ∨ c.cipherMode = .ctr) (d : Dir) :
    fuseSide c d = cipherSide d :=
  fuseSide_of_ne_ccm (by obtain h | h := hmode <;> simp [h]) d

/-- RFC 4543 emits its operation over associated data always (R202): it has some (R146). -/
theorem PlanOf.allPermitted {c : Ctx} {cryptlen aadeff a0len : Nat} {d : Dir} {sp : Bool} {plan : List Instr}
    (h : PlanOf c cryptlen aadeff a0len d sp plan) :
    AllPermitted (fuseSide c d) (0 < cryptlen) (c.wrap = .rfc4543 ∨ 0 < aadeff) plan := by
  cases h with
  | single hmode =>
    have hside := fuseSide_of_separate_mac hmode d
    simp +contextual [planSingle, hside, Permitted, Ranged, tagStep_eq, Instr.wellFormed, Instr.format, padOk_iff]
  | doubleEnc hmode =>
    have hside := fuseSide_of_separate_mac hmode .encrypt
    simp +contextual [planDoubleEnc, hside, Permitted, Ranged, tagStep_eq, Instr.wellFormed, Instr.format, padOk_iff]
  | doubleDec hmode =>
    have hside := fuseSide_of_separate_mac hmode .decrypt
    simp +contextual [planDoubleDec, hside, Permitted, Ranged, tagStep_eq, Instr.wellFormed, Instr.format, padOk_iff]
  | ccm hmode =>
    have hside := fuseSide_of_ccm hmode d
    simp +contextual [planCcm, hside, Permitted, Ranged, tagStep_eq, Instr.wellFormed, Instr.format, padOk_iff, pad16_lt]
  | gcm hmode hwrap =>
    have hside : fuseSide c d = cipherSide d := fuseSide_of_ne_ccm (by simp [hmode]) d
    simp +contextual [planGcm, hside, Permitted, Ranged, tagStep_eq, Instr.wellFormed, Instr.format, padOk_iff, pad16_lt]
  | gmac hmode hwrap =>
    have hpad : (if cryptlen = 0 then pad16 (aadeff + 8) else 0) < 16 := by
      split
      · exact pad16_lt _
      · norm_num
    simp +contextual [planGmac, hwrap, Permitted, Ranged, tagStep_eq, Instr.wellFormed, Instr.format, padOk_iff, pad16_lt, hpad]

theorem plainSide_eq_input_iff {d : Dir} : plainSide d = .input ↔ d = .encrypt := by
  cases d <;> decide

theorem cipherSide_eq_output_iff {d : Dir} : cipherSide d = .output ↔ d = .encrypt := by
  cases d <;> decide

/-- Settles O31: every operation of a plan is permitted, whatever its kind. -/
theorem planOperations : Obligations.PlanOperations := by
  intro c d sp cryptlen aadeff a0len i hi
  obtain ⟨-, hperm⟩ := (planOf_planGen c d sp cryptlen aadeff a0len).allPermitted i hi
  refine ⟨fun hzero => ?_, fun hwrap hzero pad => ?_, fun side pad hfuse => ?_⟩
  · have hpayload : ¬ 0 < cryptlen := by omega
    refine ⟨?_, ?_, ?_, ?_, ?_⟩
    · rintro rfl; exact hpayload hperm
    · rintro rfl; exact hpayload hperm
    · rintro side pad rfl; exact hpayload hperm.1
    · rintro pad rfl; exact hpayload hperm
    · rintro pad rfl; exact hpayload hperm
  · have haad : ¬ (c.wrap = .rfc4543 ∨ 0 < aadeff) := by
      rintro (h | h)
      · exact hwrap h
      · omega
    constructor
    · rintro rfl; exact haad hperm
    · rintro rfl; exact haad hperm
  · subst hfuse
    obtain ⟨-, rfl⟩ := hperm
    refine ⟨fun hmode => ?_, fun hmode => ?_⟩
    · rw [fuseSide_of_ccm hmode, plainSide_eq_input_iff]
    · rw [fuseSide_of_ne_ccm hmode, cipherSide_eq_output_iff]

/-! The stored plan (R185, R208). -/

theorem planWords_getElem {l : List Instr} (h : l.length ≤ 16) {j : Nat} (hj : j < 16) :
    (planWords l)[j] = (l[j]?.map encode).getD 0 := by
  have hword : (planWords l)[j] = (planWords l).toList.getD j 0 := by simp [hj]
  rw [hword, planWords_toList h, List.getD_eq_getElem?_getD]
  by_cases hlt : j < l.length
  · rw [List.getElem?_append_left (by rwa [List.length_map]), List.getElem?_map]
  · rw [List.getElem?_append_right (by simpa using hlt), List.getElem?_eq_none (by omega : l.length ≤ j),
      List.getElem?_replicate]
    split <;> rfl

theorem decode_encode_of_legal {i : Instr} (h : i.wellFormed = true ∧ i.format = .opw) : decode .opw (encode i) = .ok i := by
  obtain ⟨hwf, hformat⟩ := h
  rw [← hformat]
  exact decodeEncode i hwf

/-- Settles O32: a stored word is its operation's encoding, and the operations of a plan have encodings. -/
theorem planWordsDecode : Obligations.PlanWordsDecode := by
  intro c d sp cryptlen aadeff a0len j hj plan
  have hplan : PlanOf c cryptlen aadeff a0len d sp plan := planOf_planGen ..
  obtain ⟨-, hshort⟩ := planGen_length c d sp cryptlen aadeff a0len
  rw [planWords_getElem (hshort.trans (by norm_num)) hj]
  refine ⟨fun i hi => ?_, fun hlong => ?_⟩
  · rw [hi]
    obtain ⟨hlegal, -⟩ := hplan.allPermitted i (List.mem_of_getElem? hi)
    exact decode_encode_of_legal hlegal
  · rw [List.getElem?_eq_none hlong]
    rfl

end Sys2Proof.Machine

/-! The payload operations (`spec/45_plan_ops.md` R217 to R219): what `CAPP`, `FUSE` and `COPY` leave in `OUTBUF`, in the
registers and in the MAC state. -/

namespace Sys2Proof.Machine

open Sys2Proof

/-- A state that reads as if a whole payload had been written holds it in `OUTBUF[0..CRYPTLEN)` and every other byte as before. -/
theorem payload_written {s t : State} {y : List Byte} (hread : t.readByte = (s.writeRange .outBuf 0 y).readByte)
    (hy : y.length = s.cryptlen.toNat) (hfit : s.cryptlen.toNat ≤ s.caps.bufCap) :
    t.readRange .outBuf 0 s.cryptlen.toNat = y
      ∧ ∀ sp off, ¬ (sp = .outBuf ∧ off < s.cryptlen.toNat) → t.readByte sp off = s.readByte sp off := by
  constructor
  · rw [readRange_congr fun i _ => congrFun₂ hread .outBuf (0 + i)]
    exact readRange_writeRange_same hy ((Nat.zero_add _).trans_le hfit)
  · intro sp off hout
    rw [hread, readByte_writeRange, if_neg]
    rintro ⟨hsp, -, -, hoff⟩
    exact hout ⟨hsp, by omega⟩

theorem ciphered_length (s : State) : s.ciphered.length = s.cryptlen.toNat := by
  rw [State.ciphered, blockCipherApply_length, payloadIn_length]

/-- An unfinished MAC state that absorbs a string stays unfinished (R259). -/
theorem macAbsorb_of_unfinished {st : MacState} (h : st.fin = false) (data : List Byte) :
    macAbsorb st data = { msg := st.msg ++ data, fin := false } := by
  rw [macAbsorb, h]

/-- The state in which a `CAPP` or a `FUSE` has written the transformed payload. -/
def State.enciphered (s : State) : State := s.startOutput.drawn.writeRange .outBuf 0 s.ciphered

theorem exec_capp_enciphered {s : State} (hpos : 0 < s.cryptlen.toNat) (hmode : s.ce.mode = .cbc ∨ s.ce.mode = .ctr)
    (hdraw : s.draw = false) : exec .capp s = .next s.enciphered.advance :=
  exec_capp hpos hmode hdraw

theorem exec_fuse_enciphered {s : State} {side : Side} {pad : Nat} (hpos : 0 < s.cryptlen.toNat) (hmode : s.ce.mode ≠ .ecb)
    (hfin : s.me.st.fin = false) (hdraw : s.draw = false) :
    exec (.fuse side pad) s = .next (s.enciphered.absorb (s.fusedSide side ++ zeros pad)).advance := by
  rw [exec_fuse hpos hmode hfin hdraw]
  cases side <;> rfl

theorem enciphered_written {s t : State} (hread : t.readByte = s.enciphered.readByte)
    (hfit : s.cryptlen.toNat ≤ s.caps.bufCap) :
    t.readRange .outBuf 0 s.cryptlen.toNat = s.ciphered
      ∧ ∀ sp off, ¬ (sp = .outBuf ∧ off < s.cryptlen.toNat) → t.readByte sp off = s.readByte sp off :=
  payload_written (s := s.startOutput.drawn) hread (ciphered_length s) hfit

/-- Settles O39: the payload written is `OUTBUF[0..CRYPTLEN)`, and the step past the operation writes no byte. -/
theorem cappResult : Obligations.CappResult := by
  intro s out hpos hfit hmode hdraw
  obtain ⟨hout, hrest⟩ := enciphered_written (readByte_advance s.enciphered) hfit
  refine ⟨_, exec_capp_enciphered hpos hmode hdraw, ?_, hout, hrest⟩
  rw [advance_mem]
  rfl

theorem ne_ecb_of_payload_mode {m : CeMode} (h : m = .cbc ∨ m = .ctr ∨ m = .gctr) : m ≠ .ecb := by
  obtain rfl | rfl | rfl := h <;> decide

/-- Settles O40: the payload is the one `CAPP` writes, and the MAC engine absorbs after the write. -/
theorem fuseResult : Obligations.FuseResult := by
  intro s side pad inp out side' hpos hfit hmode hfin hdraw
  have hside : s.fusedSide side = side' := by cases side <;> rfl
  obtain ⟨hout, hrest⟩ :=
    enciphered_written (readByte_advance (s.enciphered.absorb (s.fusedSide side ++ zeros pad))) hfit
  refine ⟨_, exec_fuse_enciphered hpos (ne_ecb_of_payload_mode hmode) hfin hdraw, ?_, hout, hrest⟩
  rw [advance_mem, hside, ← macAbsorb_of_unfinished hfin]
  rfl

/-- Settles O41: the bytes of the range copied are those of the payload as received. -/
theorem copyResult : Obligations.CopyResult := by
  intro s hpos hfit
  obtain ⟨hout, hrest⟩ := payload_written (s := s.startOutput) (readByte_advance _) (payloadIn_length s) hfit
  refine ⟨_, exec_copy hpos, ?_, fun off hoff => ?_, hrest⟩
  · rw [advance_mem]
    rfl
  · simpa using List.map_inj_left.mp hout off (List.mem_range.mpr hoff)

end Sys2Proof.Machine

/-! The loads, the absorb and the tag operations (`spec/45_plan_ops.md` R211 to R216, R220 to R223): each one's next state, in
the words of the statements. -/

namespace Sys2Proof.Machine

open Sys2Proof

/-- Settles O35: no load of the cipher engine has a precondition, so each statement is the operation's definition. -/
theorem loadCipherEngine : Obligations.LoadCipherEngine := fun _ _ _ => ⟨rfl, rfl, rfl, rfl⟩

/-- Settles O36: each load whose precondition of R212 holds. -/
theorem loadMacKey : Obligations.LoadMacKey := fun _ =>
  ⟨rfl, exec_keyldMeGhash, fun _ _ _ hmode hmat => exec_keyldMeXcbc hmode hmat⟩

theorem hashAlg_of_hmac {a : AuthMode} {alg : MacAlg}
    (h : (a = .hmacSha1 ∧ alg = .sha1) ∨ (a = .hmacSha256 ∧ alg = .sha256)) : hashAlg a = some alg := by
  obtain ⟨rfl, rfl⟩ | ⟨rfl, rfl⟩ := h <;> rfl

theorem zeroStateAlg_iff {alg : MacAlg} : zeroStateAlg alg = true ↔ alg = .xcbc ∨ alg = .cbcmac ∨ alg = .ghash := by
  cases alg <;> decide

theorem finalizes_iff {alg : MacAlg} : finalizes alg = true ↔ alg = .sha1 ∨ alg = .sha256 ∨ alg = .xcbc := by
  cases alg <;> decide

/-- Settles O37: the hash that R214 loads is the one of the authentication mode. -/
theorem loadMacState : Obligations.LoadMacState := fun _ =>
  ⟨fun _ _ _ hmat hmode => ⟨exec_stldMeIpad hmat (hashAlg_of_hmac hmode), exec_stldMeOpad hmat (hashAlg_of_hmac hmode)⟩,
    fun halg => exec_stldMeZero (zeroStateAlg_iff.mpr halg)⟩

/-- Settles O38: the string absorbed is the selector's range (R215) and its padding. -/
theorem habsResult : Obligations.HabsResult := by
  intro s src pad data hfin hdata hdraw
  have hrange : s.range src ++ zeros pad = data := by cases src <;> rfl
  rw [← hrange] at hdata
  rw [exec_habs hfin hdata hdraw, hrange, ← macAbsorb_of_unfinished hfin]
  rfl

/-- Settles O42: `HFIN` finalizes the three algorithms of R221. -/
theorem deriveAndFinalize : Obligations.DeriveAndFinalize := fun _ hdraw =>
  ⟨fun hmode hdir hfam => exec_hdrv hmode hdir hfam hdraw,
    fun halg hfin => exec_hfin (finalizes_iff.mpr halg) hfin hdraw⟩

/-- The readiness of R222 (log 14): finalized where `MacFinalize` exists, else unfinished and of whole blocks. -/
theorem macDigestOk_iff {alg : MacAlg} {st : MacState} :
    macDigestOk alg st = true ↔
      match alg with
      | .sha1 | .sha256 | .xcbc => st.fin = true
      | .cbcmac | .ghash => st.fin = false ∧ 16 ∣ st.msg.length := by
  cases alg <;> simp [macDigestOk, Nat.dvd_iff_mod_eq_zero]

/-- Settles O43: a digest is zero-filled to 32 bytes, and has the length of its algorithm. -/
theorem hextResult : Obligations.HextResult := by
  intro s d dlen ready hready
  have hlen : d.length = dlen := macDigest_length ..
  have hfill : (toReg 32 d).toList = d ++ zeros (32 - dlen) := by
    rw [← hlen]
    exact toReg_toList_of_le (macDigest_length_le ..)
  have hok : macDigestOk s.me.alg s.me.st = true := macDigestOk_iff.mpr hready
  refine ⟨⟨_, exec_hext hok rfl, hfill⟩, fun halg => ⟨_, ?_, hfill⟩⟩
  rw [exec_hext hok (extractOk_digs halg), ← hlen]
  rfl

theorem toReg_getElem {n : Nat} {l : List Byte} (h : l.length = n) {j : Nat} (hj : j < n) :
    (toReg n l)[j] = l[j] := by
  rw [← Vector.getElem_toList (by simpa using hj)]
  simp only [toReg_toList_eq h]

/-- The masked `TAGS`, byte by byte (R223). -/
theorem maskTag_getElem (s : State) (mask : Block) {j : Nat} (hj : j < 32) :
    (s.maskTag mask).tags[j] = if h : j < 16 then s.tags[j] ^^^ mask[j] else s.tags[j] := by
  have hlen : (xorBytes (s.tags.toList.take 16) mask.toList).length = 16 := by simp
  rw [State.maskTag, toReg_getElem (by simp) hj]
  split
  · rename_i h
    rw [List.getElem_append_left (by rwa [hlen])]
    simp [xorBytes]
  · rename_i h
    rw [List.getElem_append_right (by omega)]
    simp [hlen, show 16 + (j - 16) = j by omega]

/-- Settles O44: the mask falls on the first 16 bytes, `maskTag_getElem`. -/
theorem ctagResult : Obligations.CtagResult := by
  intro s blk hran hfam hdraw mask
  have hmask : aesEnc s.ctx.keyBytes (s.maskBlock blk) = mask := by cases blk <;> rfl
  refine ⟨(s.drawn.maskTag mask).tags, ?_, fun j hj => ?_, fun j hj hge => ?_⟩
  · rw [exec_ctag hran hfam hdraw, hmask]
    rfl
  · rw [maskTag_getElem, dif_pos hj]
    rfl
  · rw [maskTag_getElem, dif_neg (by omega)]
    rfl

end Sys2Proof.Machine

/-! Preconditions that fail (`spec/45_plan_ops.md` R210 to R223, `spec/46_tag_verifier.md` R240; log 13): one rule per
operation, which raises `IllegalCommand` on the state as it stands. -/

namespace Sys2Proof.Machine

open Sys2Proof

/-- The operation refuses to run: it raises `IllegalCommand` on the state as it stands. -/
def Refuses (i : Instr) (s : State) : Prop := exec i s = .next (s.raise .illegalCommand)

theorem refuses_of_require {i : Instr} {s : State} {ready : Bool} {k : State → State}
    (hexec : exec i s = .next (s.require ready k)) (h : ¬ ready = true) : Refuses i s := by
  rw [Refuses, hexec, require_of_false k (Bool.eq_false_of_not_eq_true h)]

section

variable {s : State}

theorem refuses_keyldMeXcbc (h : s.ctx.authMode ≠ .xcbc) : Refuses .keyldMeXcbc s := by
  cases hmat : s.ctx.authMat with
  | none => simp only [Refuses, exec, execKeyldMeXcbc, hmat]
  | hmac ipad opad => simp only [Refuses, exec, execKeyldMeXcbc, hmat]
  | xcbc k1 k2 k3 => simp only [Refuses, exec, execKeyldMeXcbc, hmat, h, decide_false, require_of_false]

theorem refuses_keyldMeGhash (h : s.hasRun .hdrv = false) : Refuses .keyldMeGhash s :=
  refuses_of_require rfl (ne_true_of_eq_false h)

theorem refuses_stldMeIpad (h : ∀ ipad opad, s.ctx.authMat ≠ .hmac ipad opad) : Refuses .stldMeIpad s := by
  simp only [Refuses, exec, execStldMeIpad]
  split
  · rename_i ipad opad _ hmat _
    exact absurd hmat (h ipad opad)
  · rfl

theorem refuses_stldMeOpad (h : ∀ ipad opad, s.ctx.authMat ≠ .hmac ipad opad) : Refuses .stldMeOpad s := by
  simp only [Refuses, exec, execStldMeOpad]
  split
  · rename_i ipad opad _ hmat _
    exact absurd hmat (h ipad opad)
  · rfl

theorem refuses_stldMeZero (h : s.me.alg = .sha1 ∨ s.me.alg = .sha256) : Refuses .stldMeZero s :=
  refuses_of_require rfl (by obtain h | h := h <;> simp [h, zeroStateAlg])

theorem refuses_habs {src : AbsSrc} {pad : Nat} (h : s.me.st.fin = true ∨ s.range src ++ zeros pad = []) :
    Refuses (.habs src pad) s :=
  refuses_of_require rfl (by obtain h | h := h <;> simp [h])

/-- An empty range and no padding leave nothing to absorb (R215, R216). -/
theorem refuses_habs_of_empty {src : AbsSrc} (h : s.range src = []) : Refuses (.habs src 0) s :=
  refuses_habs (.inr (by rw [h]; rfl))

theorem refuses_capp (h : s.cryptlen = 0 ∨ s.ce.mode = .ecb ∨ s.ce.mode = .gctr) : Refuses .capp s :=
  refuses_of_require rfl (by obtain h | h | h := h <;> simp [h])

theorem refuses_fuse {side : Side} {pad : Nat} (h : s.cryptlen = 0 ∨ s.ce.mode = .ecb ∨ s.me.st.fin = true) :
    Refuses (.fuse side pad) s :=
  refuses_of_require rfl (by obtain h | h | h := h <;> simp [h])

theorem refuses_copy (h : s.cryptlen = 0) : Refuses .copy s := refuses_of_require rfl (by simp [h])

theorem refuses_hdrv (h : s.ce.mode ≠ .ecb ∨ s.ce.dir ≠ .encrypt ∨ s.ce.fam ≠ .aes) : Refuses .hdrv s :=
  refuses_of_require rfl (by obtain h | h | h := h <;> simp [h])

theorem refuses_hfin (h : s.me.st.fin = true ∨ s.me.alg = .cbcmac ∨ s.me.alg = .ghash) : Refuses .hfin s :=
  refuses_of_require rfl (by obtain h | h | h := h <;> simp [h, finalizes])

theorem refuses_hext {dst : ExtDst} (h : macDigestOk s.me.alg s.me.st = false ∨ extractOk dst s.me.alg = false) :
    Refuses (.hext dst) s :=
  refuses_of_require rfl (by obtain h | h := h <;> simp [h])

theorem refuses_hext_of_unfinished {dst : ExtDst} (hfin : s.me.st.fin = false)
    (halg : s.me.alg = .sha1 ∨ s.me.alg = .sha256 ∨ s.me.alg = .xcbc) : Refuses (.hext dst) s :=
  refuses_hext (.inl (by obtain halg | halg | halg := halg <;> simp [halg, macDigestOk, hfin]))

/-- CBC-MAC and GHASH are extracted from an unfinished state of whole blocks (log 14). -/
theorem refuses_hext_of_block_mac {dst : ExtDst} (h : s.me.st.fin = true ∨ ¬ 16 ∣ s.me.st.msg.length)
    (halg : s.me.alg = .cbcmac ∨ s.me.alg = .ghash) : Refuses (.hext dst) s := by
  refine refuses_hext (.inl (Bool.eq_false_of_not_eq_true fun hok => ?_))
  have hready : s.me.st.fin = false ∧ 16 ∣ s.me.st.msg.length := by
    obtain halg | halg := halg <;> rw [halg] at hok <;> exact macDigestOk_iff.mp hok
  obtain ⟨hfin, hblocks⟩ := hready
  obtain h | h := h
  · exact absurd h (ne_true_of_eq_false hfin)
  · exact h hblocks

theorem refuses_ctag {blk : MaskBlk} (h : s.hasRun (.hext .tags) = false ∨ s.ctx.family = .tdes) : Refuses (.ctag blk) s :=
  refuses_of_require rfl (by obtain h | h := h <;> simp [h])

theorem refuses_tagout {mode : TagMode} (h : s.hasRun (.hext .tags) = false ∨ s.dir ≠ tagDir mode) :
    Refuses (.tagout mode) s :=
  refuses_of_require rfl (by obtain h | h := h <;> simp [h])

theorem readRange_of_word_zero {n : Word} (h : n = 0) (sp : Space) : s.readRange sp 0 n.toNat = [] := by
  rw [h]
  rfl

end

/-- Settles O47: each clause is the rule of its operation. -/
theorem failedPreconditions : Obligations.FailedPreconditions := by
  intro s
  refine ⟨refuses_keyldMeXcbc, refuses_keyldMeGhash, fun h => ⟨refuses_stldMeIpad h, refuses_stldMeOpad h⟩,
    refuses_stldMeZero, fun h _ _ => refuses_habs (.inl h), fun h _ _ => refuses_fuse (.inr (.inr h)),
    fun _ => refuses_habs_of_empty, fun h => refuses_habs_of_empty (readRange_of_word_zero h .aadBuf),
    fun h => ⟨refuses_habs_of_empty (readRange_of_word_zero h .inBuf),
      refuses_habs_of_empty (readRange_of_word_zero h .outBuf)⟩,
    fun h => refuses_habs_of_empty (by simp [State.range, h]), fun h => refuses_habs_of_empty (by simp [State.range, h]),
    fun h => ⟨refuses_capp (.inl h), refuses_copy h, fun _ _ => refuses_fuse (.inl h)⟩,
    fun h => ⟨refuses_capp (.inr (.inl h)), fun _ _ => refuses_fuse (.inr (.inl h))⟩,
    fun h => refuses_capp (.inr (.inr h)), refuses_hdrv, refuses_hfin, fun hfin halg _ => refuses_hext_of_unfinished hfin halg,
    fun hblocks halg _ => refuses_hext_of_block_mac (.inr hblocks) halg,
    fun hfin halg _ => refuses_hext_of_block_mac (.inl hfin) halg, fun halg => refuses_hext (.inr ?_),
    fun hran _ _ => ⟨refuses_ctag (.inl hran), refuses_tagout (.inl hran)⟩, fun hfam _ => refuses_ctag (.inr hfam),
    fun hdir => refuses_tagout (.inr ?_), fun hdir => refuses_tagout (.inr ?_)⟩
  · obtain h | h | h := halg <;> rw [h] <;> rfl
  · rw [hdir]; decide
  · rw [hdir]; decide

end Sys2Proof.Machine

/-! What a plan operation may write (`spec/45_plan_ops.md` R224, `spec/10_state.md` R38), whatever its outcome: an area of
`OUTBUF` and the request's registers, not the context, the plan, the host's registers or another byte. -/

namespace Sys2Proof.Machine

open Sys2Proof

/-- `t` differs from `s` only in the request's and the model's registers and in the bytes of `OUTBUF` in the area. -/
structure WritesOnly (area : Nat → Prop) (s t : State) : Prop where
  ctx : t.ctx = s.ctx
  plan : t.plan = s.plan
  plen : t.plen = s.plen
  cfg : t.cfg = s.cfg
  keylen : t.keylen = s.keylen
  authkeylen : t.authkeylen = s.authkeylen
  aadlen : t.aadlen = s.aadlen
  inlen : t.inlen = s.inlen
  caps : t.caps = s.caps
  bytes : ∀ sp off, ¬ (sp = .outBuf ∧ area off) → t.readByte sp off = s.readByte sp off

section

variable {area : Nat → Prop} {s u : State}

theorem WritesOnly.refl (s : State) : WritesOnly area s s := ⟨rfl, rfl, rfl, rfl, rfl, rfl, rfl, rfl, rfl, fun _ _ _ => rfl⟩

/-- The registers of the request and the draws are free. -/
theorem WritesOnly.with_registers (h : WritesOnly area s u) {ce : CipherEngine} {me : MacEngine} {frame : Frame}
    {tags digs : Vector Byte 32} {diglen : BitVec 6} {outw : Bool} {outlen : Word} {draws : List Bool} :
    WritesOnly area s { u with ce := ce, me := me, frame := frame, tags := tags, digs := digs, diglen := diglen, outw := outw,
                               outlen := outlen, draws := draws } :=
  ⟨h.ctx, h.plan, h.plen, h.cfg, h.keylen, h.authkeylen, h.aadlen, h.inlen, h.caps, h.bytes⟩

theorem WritesOnly.registers {ce : CipherEngine} {me : MacEngine} {frame : Frame} {tags digs : Vector Byte 32}
    {diglen : BitVec 6} {outw : Bool} {outlen : Word} {draws : List Bool} :
    WritesOnly area s { s with ce := ce, me := me, frame := frame, tags := tags, digs := digs, diglen := diglen, outw := outw,
                               outlen := outlen, draws := draws } :=
  (WritesOnly.refl s).with_registers

theorem WritesOnly.writeRange (h : WritesOnly area s u) {a : Nat} {bs : List Byte}
    (harea : ∀ off, a ≤ off → off < a + bs.length → area off) : WritesOnly area s (u.writeRange .outBuf a bs) := by
  refine ⟨h.ctx, h.plan, h.plen, h.cfg, h.keylen, h.authkeylen, h.aadlen, h.inlen, h.caps, fun sp off hout => ?_⟩
  rw [readByte_writeRange, if_neg]
  · exact h.bytes sp off hout
  · rintro ⟨hsp, -, hge, hlt⟩
    exact hout ⟨hsp, harea off hge hlt⟩

theorem WritesOnly.advance (h : WritesOnly area s u) : WritesOnly area s u.advance :=
  ⟨(advance_ctx u).trans h.ctx, (advance_plan u).trans h.plan, (advance_plen u).trans h.plen,
    (advance_cfg u).trans h.cfg, (advance_keylen u).trans h.keylen, (advance_authkeylen u).trans h.authkeylen,
    (advance_aadlen u).trans h.aadlen, (advance_inlen u).trans h.inlen, (advance_caps u).trans h.caps,
    fun sp off hout => (congrFun₂ (readByte_advance u) sp off).trans (h.bytes sp off hout)⟩

/-- An error writes the payload output at most, and that only after a payload-writing operation has started (R290, R292). -/
theorem WritesOnly.raise (h : WritesOnly area s u) (harea : u.outw = true → ∀ off, off < u.cryptlen.toNat → area off)
    (e : CmdError) : WritesOnly area s (u.raise e) := by
  refine ⟨(raise_ctx u e).trans h.ctx, (raise_plan u e).trans h.plan, (raise_plen u e).trans h.plen,
    (raise_cfg u e).trans h.cfg, (raise_keylen u e).trans h.keylen, (raise_authkeylen u e).trans h.authkeylen,
    (raise_aadlen u e).trans h.aadlen, (raise_inlen u e).trans h.inlen, (raise_caps u e).trans h.caps, fun sp off hout => ?_⟩
  rw [readByte_raise]
  obtain ⟨-, houtw, hzero⟩ | ⟨-, hsame⟩ := zeroIfWritten_cases u
  · rw [hzero, readByte_zeroOutput, if_neg fun ⟨hsp, hoff⟩ => hout ⟨hsp, harea houtw off hoff⟩]
    exact h.bytes sp off hout
  · rw [hsame]
    exact h.bytes sp off hout

theorem WritesOnly.require (hraise : s.outw = true → ∀ off, off < s.cryptlen.toNat → area off) {pre : Bool}
    {k : State → State} (hk : WritesOnly area s (k s)) : WritesOnly area s (s.require pre k) := by
  cases hpre : pre with
  | true => rwa [require_of_true k rfl]
  | false =>
    rw [require_of_false k rfl]
    exact (WritesOnly.refl s).raise hraise _

theorem WritesOnly.primitiveCall (h : WritesOnly area s u.drawn)
    (hraise : u.outw = true → ∀ off, off < u.cryptlen.toNat → area off) {k : State → State}
    (hk : WritesOnly area s (k u.drawn)) : WritesOnly area s (u.primitiveCall k) := by
  cases hdraw : u.draw with
  | true =>
    rw [primitiveCall_of_true k hdraw]
    exact h.raise hraise _
  | false => rwa [primitiveCall_of_false k hdraw]

end

/-- The operations that write or zero the payload output themselves (R217 to R219, R244). -/
def touchesPayload : Instr → Bool
  | .capp | .fuse _ _ | .copy | .tagout .cmp => true
  | _ => false

/-- The offsets of `OUTBUF` an operation may write: the payload's, if it touches the payload or an earlier operation has (so
that an error zeroes it), and under `TAGOUT STORE` the tag's. -/
def State.outputArea (s : State) (i : Instr) (off : Nat) : Prop :=
  (off < s.cryptlen.toNat ∧ (s.outw = true ∨ touchesPayload i = true))
    ∨ (i = .tagout .store ∧ s.cryptlen.toNat ≤ off ∧ off < s.cryptlen.toNat + s.ctx.tagLen.toNat)

/-- Every plan operation writes its area only, one case per row of the table. -/
theorem writesOnly_exec {s t : State} {i : Instr} (hi : i.format = .opw) (hexec : exec i s = .next t) :
    WritesOnly (s.outputArea i) s t := by
  have hraise : s.outw = true → ∀ off, off < s.cryptlen.toNat → s.outputArea i off := fun houtw _ hoff => .inl ⟨hoff, .inl houtw⟩
  have payload (h : touchesPayload i = true) (off : Nat) (hoff : off < s.cryptlen.toNat) : s.outputArea i off :=
    .inl ⟨hoff, .inr h⟩
  have written (h : touchesPayload i = true) {bs : List Byte} (hbs : bs.length = s.cryptlen.toNat) (off : Nat) (_ : 0 ≤ off)
      (hoff : off < 0 + bs.length) : s.outputArea i off := payload h off (by omega)
  have same : WritesOnly (s.outputArea i) s s := .refl s
  have refused : WritesOnly (s.outputArea i) s (s.raise .illegalCommand) := same.raise hraise _
  cases i with
  | setkey | enc | dec | clrkey => cases hi
  | keyldCe m d => cases hexec; exact .advance .registers
  | keyldMeXcbc =>
    simp only [exec, execKeyldMeXcbc] at hexec
    split at hexec <;> cases hexec
    · exact .require hraise (.advance .registers)
    · exact refused
    · exact refused
  | keyldMeCbcmac => cases hexec; exact .advance .registers
  | keyldMeGhash => cases hexec; exact .require hraise (.advance .registers)
  | stldCeCiv => cases hexec; exact .advance .registers
  | stldCeCtr0p1 => cases hexec; exact .advance .registers
  | stldCeJ2 => cases hexec; exact .advance .registers
  | stldMeIpad =>
    simp only [exec, execStldMeIpad] at hexec
    split at hexec <;> cases hexec
    · exact .advance .registers
    · exact refused
  | stldMeOpad =>
    simp only [exec, execStldMeOpad] at hexec
    split at hexec <;> cases hexec
    · exact .advance .registers
    · exact refused
  | stldMeZero => cases hexec; exact .require hraise (.advance .registers)
  | habs src pad =>
    cases hexec
    exact .require hraise (.primitiveCall .registers hraise (.advance .registers))
  | capp =>
    cases hexec
    have hdrawn : WritesOnly (s.outputArea .capp) s s.startOutput.drawn := .registers
    exact .require hraise (.primitiveCall hdrawn (fun _ => payload rfl)
      (hdrawn.writeRange (written rfl (ciphered_length s.startOutput.drawn))).advance)
  | fuse side pad =>
    cases hexec
    have hdrawn : WritesOnly (s.outputArea (.fuse side pad)) s s.startOutput.drawn := .registers
    exact .require hraise (.primitiveCall hdrawn (fun _ => payload rfl)
      (hdrawn.writeRange (written rfl (ciphered_length s.startOutput.drawn))).with_registers.advance)
  | copy =>
    cases hexec
    have hstarted : WritesOnly (s.outputArea .copy) s s.startOutput := .registers
    exact .require hraise (hstarted.writeRange (written rfl (payloadIn_length s))).advance
  | hdrv =>
    cases hexec
    exact .require hraise (.primitiveCall .registers hraise (.advance .registers))
  | hfin =>
    cases hexec
    exact .require hraise (.primitiveCall .registers hraise (.advance .registers))
  | hext dst =>
    cases hexec
    refine .require hraise (WritesOnly.advance ?_)
    cases dst with
    | tags => exact .registers
    | digs => exact .registers
  | ctag blk =>
    cases hexec
    exact .require hraise (.primitiveCall .registers hraise (.advance .registers))
  | tagout mode =>
    cases hexec
    refine .require hraise ?_
    cases mode with
    | store =>
      have htag : s.computedTag.length ≤ s.ctx.tagLen.toNat := List.length_take_le ..
      have hstored : WritesOnly (s.outputArea (.tagout .store)) s (s.writeRange .outBuf s.cryptlen.toNat s.computedTag) :=
        same.writeRange fun off hge hlt => .inr ⟨rfl, hge, by omega⟩
      exact hstored.with_registers.advance
    | cmp =>
      have hzeroed : WritesOnly (s.outputArea (.tagout .cmp)) s s.zeroOutput := same.writeRange (written rfl (zeros_length _))
      show WritesOnly _ s s.compareTag
      unfold State.compareTag
      split
      · exact .advance .registers
      · exact hzeroed.raise (fun _ => payload rfl) _

theorem not_touchesPayload {i : Instr} (hcapp : i ≠ .capp) (hfuse : ∀ side pad, i ≠ .fuse side pad) (hcopy : i ≠ .copy)
    (htagout : ∀ m, i ≠ .tagout m) : ¬ touchesPayload i = true := by
  cases i with
  | capp => exact absurd rfl hcapp
  | fuse side pad => exact absurd rfl (hfuse side pad)
  | copy => exact absurd rfl hcopy
  | tagout m => exact absurd rfl (htagout m)
  | _ => exact Bool.false_ne_true

/-- Settles O49: the area has no offset beyond the payload but the tag's, and under operations that touch no payload it is empty
unless one did before. -/
theorem planOperationFrame : Obligations.PlanOperationFrame := by
  intro s t i hi hexec
  obtain ⟨hctx, hplan, hplen, hcfg, hkeylen, hauthkeylen, haadlen, hinlen, hcaps, hbytes⟩ := writesOnly_exec hi hexec
  refine ⟨hctx, hplan, hplen, hcfg, hkeylen, hauthkeylen, haadlen, hinlen, hcaps, fun sp off hsp => ?_,
    fun off hbeyond htag => ?_, fun houtw hcapp hfuse hcopy htagout off => ?_⟩
  · exact hbytes sp off fun hout => hsp hout.1
  · refine hbytes .outBuf off ?_
    rintro ⟨-, ⟨hpayload, -⟩ | ⟨hstore, -, hlt⟩⟩
    · omega
    · exact htag ⟨hstore, hlt⟩
  · refine hbytes .outBuf off ?_
    rintro ⟨-, ⟨-, hwrote | htouch⟩ | ⟨hstore, -⟩⟩
    · exact absurd hwrote (ne_true_of_eq_false houtw)
    · exact not_touchesPayload hcapp hfuse hcopy htagout htouch
    · exact htagout _ hstore

end Sys2Proof.Machine

/-! `FUSE` and its two halves (`spec/45_plan_ops.md` R225): away from the end of the plan, one step writes and absorbs what the
two steps do. -/

namespace Sys2Proof.Machine

open Sys2Proof Sys2Proof.Safety

theorem draw_of_noFailure {s : State} (h : NoFailure s) : s.draw = false := (InRequest.refl h).draw

theorem noFailure_tail {s t : State} (h : NoFailure s) (ht : t.draws = s.draws.tail) : NoFailure t := fun b hb =>
  h b (List.mem_of_mem_tail (ht ▸ hb))

/-- The state at the plan's next word. -/
def State.moved (s : State) : State := { s with pp := s.pp + 1 }

@[simp] theorem moved_pp (s : State) : s.moved.pp = s.pp + 1 := rfl
@[simp] theorem moved_plen (s : State) : s.moved.plen = s.plen := rfl
@[simp] theorem enciphered_pp (s : State) : s.enciphered.pp = s.pp := rfl
@[simp] theorem enciphered_plen (s : State) : s.enciphered.plen = s.plen := rfl

theorem advance_of_more {s : State} (h : s.pp.toNat + 1 < s.plen.toNat) : s.advance = s.moved :=
  (stepAdvances s).1 (by bv_omega)

theorem append_zeros_ne_nil {x : List Byte} {n : Nat} (hx : x.length = n) (hpos : 0 < n) (pad : Nat) : x ++ zeros pad ≠ [] :=
  List.append_ne_nil_of_left_ne_nil (List.ne_nil_of_length_pos (hx ▸ hpos)) _

section

variable {s : State} (hdraws : NoFailure s) (hpos : 0 < s.cryptlen.toNat) (hmode : s.ce.mode = .cbc ∨ s.ce.mode = .ctr)
  (hfin : s.me.st.fin = false) (hpp : s.pp.toNat + 2 < s.plen.toNat)

include hdraws hpos hmode hfin hpp

theorem fuse_moved (side : Side) (pad : Nat) :
    exec (.fuse side pad) s = .next (s.enciphered.absorb (s.fusedSide side ++ zeros pad)).moved := by
  rw [exec_fuse_enciphered hpos (ne_ecb_of_payload_mode (hmode.imp_right .inl)) hfin (draw_of_noFailure hdraws),
    advance_of_more (s := s.enciphered.absorb _) (by simpa using Nat.lt_of_succ_lt hpp)]

/-- `FUSE OUT` is `CAPP ; HABS POUT`: the payload that `HABS` reads back is the one `CAPP` has written. -/
theorem fuse_output_eq_capp_habs (hfit : s.cryptlen.toNat ≤ s.caps.bufCap) (pad : Nat) :
    ∃ t u v, exec (.fuse .output pad) s = .next t ∧ exec .capp s = .next u ∧ exec (.habs .pout pad) u = .next v
      ∧ t.me.st = v.me.st ∧ ∀ sp off, t.readByte sp off = v.readByte sp off := by
  have hpp' : (s.pp + 1).toNat + 1 < s.plen.toNat := by bv_omega
  have hcapp : exec .capp s = .next s.enciphered.moved := by
    rw [exec_capp_enciphered hpos hmode (draw_of_noFailure hdraws),
      advance_of_more (s := s.enciphered) (by simpa using Nat.lt_of_succ_lt hpp)]
  have hpayload : s.enciphered.moved.range .pout = s.ciphered := (enciphered_written rfl hfit).1
  have hdraw : s.enciphered.moved.draw = false := draw_of_noFailure (noFailure_tail hdraws rfl)
  have hhabs : exec (.habs .pout pad) s.enciphered.moved
      = .next (s.enciphered.moved.drawn.absorb (s.ciphered ++ zeros pad)).moved := by
    have hdata := append_zeros_ne_nil (ciphered_length s) hpos pad
    rw [← hpayload] at hdata ⊢
    rw [exec_habs (s := s.enciphered.moved) hfin hdata hdraw,
      advance_of_more (s := s.enciphered.moved.drawn.absorb _) (by simpa using hpp')]
  exact ⟨_, _, _, fuse_moved hdraws hpos hmode hfin hpp .output pad, hcapp, hhabs, rfl, fun _ _ => rfl⟩

/-- `FUSE IN` is `HABS PIN ; CAPP`: what `HABS` absorbs plays no part in the payload that `CAPP` writes. -/
theorem fuse_input_eq_habs_capp (pad : Nat) :
    ∃ t u v, exec (.fuse .input pad) s = .next t ∧ exec (.habs .pin pad) s = .next u ∧ exec .capp u = .next v
      ∧ t.me.st = v.me.st ∧ ∀ sp off, t.readByte sp off = v.readByte sp off := by
  have hhabs : exec (.habs .pin pad) s = .next (s.drawn.absorb (s.payloadIn ++ zeros pad)).moved := by
    rw [exec_habs (src := .pin) hfin (append_zeros_ne_nil (payloadIn_length s) hpos pad) (draw_of_noFailure hdraws),
      advance_of_more (s := s.drawn.absorb _) (by simpa using Nat.lt_of_succ_lt hpp)]
    rfl
  have hpp' : (s.pp + 1).toNat + 1 < s.plen.toNat := by bv_omega
  have hcapp : exec .capp (s.drawn.absorb (s.payloadIn ++ zeros pad)).moved
      = .next (s.drawn.absorb (s.payloadIn ++ zeros pad)).moved.enciphered.moved := by
    rw [exec_capp_enciphered (s := (s.drawn.absorb _).moved) hpos hmode (draw_of_noFailure (noFailure_tail hdraws rfl)),
      advance_of_more (s := (s.drawn.absorb _).moved.enciphered) (by simpa using hpp')]
  exact ⟨_, _, _, fuse_moved hdraws hpos hmode hfin hpp .input pad, hhabs, hcapp, rfl, fun _ _ => rfl⟩

end

/-- Settles O50: the two sides, each as one step against two. -/
theorem fuseIsItsHalves : Obligations.FuseIsItsHalves := fun _ pad hdraws hpos hfit hmode hfin hpp =>
  ⟨fuse_output_eq_capp_habs hdraws hpos hmode hfin hpp hfit pad, fuse_input_eq_habs_capp hdraws hpos hmode hfin hpp pad⟩

end Sys2Proof.Machine

/-! The Tag Verifier (`spec/46_tag_verifier.md` R240 to R245): where `TAGOUT STORE` puts the tag, and what decides
`TAGOUT CMP`. -/

namespace Sys2Proof.Machine

open Sys2Proof Sys2Proof.Safety

theorem computedTag_length_of_le {s : State} (h : s.ctx.tagLen.toNat ≤ 32) : s.computedTag.length = s.ctx.tagLen.toNat := by
  rw [State.computedTag, List.length_take, Vector.length_toList, Nat.min_eq_left h]

/-! `TAGOUT STORE` (R242). -/

/-- `OUTBUF[CRYPTLEN..CRYPTLEN+TAGLEN)`, where the tag is stored. -/
def State.tagArea (s : State) (off : Nat) : Prop :=
  s.cryptlen.toNat ≤ off ∧ off < s.cryptlen.toNat + s.ctx.tagLen.toNat

theorem writesOnly_storeTag {s : State} (hlen : s.computedTag.length = s.ctx.tagLen.toNat) :
    WritesOnly s.tagArea s s.storeTag := by
  have hstored : WritesOnly s.tagArea s (s.writeRange .outBuf s.cryptlen.toNat s.computedTag) :=
    (WritesOnly.refl s).writeRange fun off hge hlt => ⟨hge, hlen ▸ hlt⟩
  exact hstored.with_registers

theorem readRange_storeTag_tag {s : State} (hlen : s.computedTag.length = s.ctx.tagLen.toNat)
    (hfit : s.cryptlen.toNat + s.ctx.tagLen.toNat ≤ s.caps.bufCap) :
    s.storeTag.readRange .outBuf s.cryptlen.toNat s.ctx.tagLen.toNat = s.computedTag := by
  show (s.writeRange .outBuf s.cryptlen.toNat s.computedTag).readRange .outBuf _ _ = _
  exact readRange_writeRange_same hlen hfit

/-- Settles O45: the tag is the only string written, and the step past the operation writes no byte. -/
theorem tagStored : Obligations.TagStored := by
  intro s n t hdir hran htagLen hfit
  have hlen : s.computedTag.length = s.ctx.tagLen.toNat := computedTag_length_of_le htagLen
  refine ⟨_, exec_tagout_store hdir hran, ?_, ?_, (writesOnly_storeTag hlen).advance.bytes⟩
  · rw [advance_mem]
    rfl
  · rw [readRange_congr fun i _ => congrFun₂ (readByte_advance s.storeTag) .outBuf (n + i)]
    exact readRange_storeTag_tag hlen hfit

/-! `TAGOUT CMP` (R243 to R245). -/

/-- The OR of the differences decides equality of all tag bytes (R243). -/
theorem diffBytes_tags_eq_zero_iff {s : State} (h : s.ctx.tagLen.toNat ≤ 32) :
    diffBytes s.computedTag s.receivedTag = 0 ↔ s.computedTag = s.receivedTag :=
  diffBytes_eq_zero_iff ((computedTag_length_of_le h).trans (readRange_length ..).symm)

theorem compareTag_of_eq {s : State} (hle : s.ctx.tagLen.toNat ≤ 32) (h : s.computedTag = s.receivedTag) :
    s.compareTag = { s with outlen := s.cryptlen }.advance := by
  rw [State.compareTag, if_pos ((diffBytes_tags_eq_zero_iff hle).mpr h)]

theorem compareTag_of_ne {s : State} (hle : s.ctx.tagLen.toNat ≤ 32) (h : s.computedTag ≠ s.receivedTag) :
    s.compareTag = s.zeroOutput.raise .authenticationFailed := by
  rw [State.compareTag, if_neg (mt (diffBytes_tags_eq_zero_iff hle).mp h)]

/-- Settles O46: equal tags release the length, unequal ones raise the error on the zeroed output. -/
theorem tagCompared : Obligations.TagCompared := by
  intro s hdir hran htagLen received computed
  rw [exec_tagout_cmp hdir hran]
  constructor
  · intro heq
    rw [compareTag_of_eq htagLen heq]
  · intro hne
    rw [compareTag_of_ne htagLen hne]
    exact ⟨_, rfl, raise_errcode _ _, raise_outlen _ _, raise_status _ _, raise_phase _ _, raise_pend _ _,
      scrubbed_raise _ _, raise_pp _ _, raise_plen _ _, raise_plan _ _, raise_ctx _ _, readByte_raise_zeroOutput s _⟩

end Sys2Proof.Machine

/-! Raising an error (`spec/60_exceptions.md` R290) and failing primitives (`spec/47_primitives.md` R252, R288, R292): what
every error leaves, and the one error a true draw raises. -/

namespace Sys2Proof.Machine

open Sys2Proof Sys2Proof.Safety

/-- An error zeroes the payload that the request has started to write, and no other byte (R290, R292). -/
theorem readByte_raise_eq_ite (s : State) (e : CmdError) (sp : Space) (off : Nat) :
    (s.raise e).readByte sp off
      = if s.phase = .exec ∧ s.outw = true ∧ sp = .outBuf ∧ off < s.cryptlen.toNat then 0 else s.readByte sp off := by
  rw [readByte_raise]
  obtain ⟨hphase, houtw, hzero⟩ | ⟨hnot, hsame⟩ := zeroIfWritten_cases s
  · simp only [hzero, readByte_zeroOutput, hphase, houtw, true_and]
  · rw [hsame, if_neg fun h => hnot ⟨h.1, h.2.1⟩]

/-- Settles O34: one rule per field that `raise` writes or leaves. -/
theorem raiseEffects : Obligations.RaiseEffects := fun s e =>
  ⟨raise_outlen s e, raise_errcode s e, scrubbed_raise s e, raise_status s e, raise_phase s e, raise_pend s e,
    raise_ctx s e, raise_pp s e, raise_plen s e, raise_plan s e, raise_cfg s e, raise_keylen s e, raise_authkeylen s e,
    raise_aadlen s e, raise_inlen s e, readByte_raise_eq_ite s e⟩

/-- The operations that set `OUTW` before they call their primitive (R217, R218). -/
def startsOutput : Instr → Bool
  | .capp => true
  | .fuse _ _ => true
  | _ => false

theorem startsOutput_iff {i : Instr} : startsOutput i = true ↔ i = .capp ∨ ∃ side pad, i = .fuse side pad := by
  cases i <;> simp [startsOutput]

/-- The state in which an operation calls its primitive. -/
def State.calling (s : State) (i : Instr) : State := { s with outw := startsOutput i || s.outw }

section

variable {s : State} {ready : Bool} (hready : ready = true) (hdraw : s.draw = true) (k : State → State)

include hready hdraw

theorem require_failing_call : s.require ready (fun s => s.primitiveCall k) = s.drawn.raise .engineError := by
  rw [require_of_true _ hready, primitiveCall_of_true _ hdraw]

theorem require_failing_output_call :
    s.require ready (fun s => s.startOutput.primitiveCall k) = s.startOutput.drawn.raise .engineError := by
  rw [require_of_true _ hready, primitiveCall_of_true _ ((startOutput_draw s).trans hdraw)]

end

/-- An operation that reaches its primitive call with a true draw raises `EngineError` there (R252). -/
def FailsAtCall (i : Instr) (s : State) : Prop := exec i s = .next ((s.calling i).drawn.raise .engineError)

section

variable {s : State} (hdraw : s.draw = true)

include hdraw

theorem failsAtCall_habs {src : AbsSrc} {pad : Nat} (hfin : s.me.st.fin = false) (hdata : s.range src ++ zeros pad ≠ []) :
    FailsAtCall (.habs src pad) s :=
  congrArg _ (require_failing_call (by rw [hfin, decide_eq_true hdata]; rfl) hdraw _)

theorem failsAtCall_capp (hpos : 0 < s.cryptlen.toNat) (hmode : s.ce.mode = .cbc ∨ s.ce.mode = .ctr) :
    FailsAtCall .capp s :=
  congrArg _ (require_failing_output_call (by simpa [hpos] using hmode) hdraw _)

theorem failsAtCall_fuse {side : Side} {pad : Nat} (hpos : 0 < s.cryptlen.toNat) (hmode : s.ce.mode ≠ .ecb)
    (hfin : s.me.st.fin = false) : FailsAtCall (.fuse side pad) s :=
  congrArg _ (require_failing_output_call (by simp [hpos, hmode, hfin]) hdraw _)

theorem failsAtCall_hdrv (hmode : s.ce.mode = .ecb) (hdir : s.ce.dir = .encrypt) (hfam : s.ce.fam = .aes) :
    FailsAtCall .hdrv s :=
  congrArg _ (require_failing_call (by simp [hmode, hdir, hfam]) hdraw _)

theorem failsAtCall_hfin (halg : s.me.alg = .sha1 ∨ s.me.alg = .sha256 ∨ s.me.alg = .xcbc) (hfin : s.me.st.fin = false) :
    FailsAtCall .hfin s :=
  congrArg _ (require_failing_call (by rw [finalizes_iff.mpr halg, hfin]; rfl) hdraw _)

theorem failsAtCall_ctag {blk : MaskBlk} (hran : s.hasRun (.hext .tags) = true) (hfam : s.ctx.family = .aes) :
    FailsAtCall (.ctag blk) s :=
  congrArg _ (require_failing_call (by simp [hran, hfam]) hdraw _)

end

/-- A call that fails in an operation step zeroes the payload once a payload-writing operation, this one included, has
started. -/
theorem readByte_failed_call {s : State} (hphase : s.phase = .exec) (i : Instr) (sp : Space) (off : Nat) :
    ((s.calling i).drawn.raise .engineError).readByte sp off
      = if sp = .outBuf ∧ off < s.cryptlen.toNat ∧ (startsOutput i = true ∨ s.outw = true) then 0
        else s.readByte sp off := by
  have hcalled : (s.calling i).drawn.phase = .exec := hphase
  have hstarted : (s.calling i).drawn.outw = true ↔ startsOutput i = true ∨ s.outw = true := Bool.or_eq_true_iff
  rw [readByte_raise_eq_ite]
  refine if_congr ?_ rfl rfl
  rw [hstarted, and_iff_right hcalled, and_comm, and_assoc]
  rfl

/-- Settles O48: each of the six operations fails at its call, and the error's effects are those of `raise`. -/
theorem engineErrors : Obligations.EngineErrors := by
  intro s i hphase hdraw hcall
  have hfails : FailsAtCall i s := by
    obtain ⟨src, pad, rfl, hfin, hdata⟩ | ⟨rfl, hpos, hmode⟩ | ⟨side, pad, rfl, hpos, hmode, hfin⟩
      | ⟨rfl, hmode, hdir, hfam⟩ | ⟨rfl, halg, hfin⟩ | ⟨blk, rfl, hran, hfam⟩ := hcall
    · exact failsAtCall_habs hdraw hfin hdata
    · exact failsAtCall_capp hdraw hpos hmode
    · exact failsAtCall_fuse hdraw hpos hmode hfin
    · exact failsAtCall_hdrv hdraw hmode hdir hfam
    · exact failsAtCall_hfin hdraw halg hfin
    · exact failsAtCall_ctag hdraw hran hfam
  have hstarted : (s.outw = true ∨ i = .capp ∨ ∃ side pad, i = .fuse side pad) ↔ startsOutput i = true ∨ s.outw = true := by
    rw [startsOutput_iff, or_comm]
  refine ⟨_, hfails, raise_errcode _ _, raise_outlen _ _, scrubbed_raise _ _, raise_phase _ _, raise_status _ _,
    raise_pp _ _, raise_plen _ _, raise_plan _ _, raise_ctx _ _, raise_draws _ _, ?_, ?_⟩
  · intro sp off hsp hoff hwritten
    rw [readByte_failed_call hphase, if_pos ⟨hsp, hoff, hstarted.mp hwritten⟩]
  · intro sp off hkept
    rw [readByte_failed_call hphase, if_neg (by rwa [← hstarted])]

end Sys2Proof.Machine

/-! Deciphering undoes enciphering (`spec/47_primitives.md` R253, R255, R263 to R267): the law of the block functions, carried
through the blocks of each mode. -/

namespace Sys2Proof.Machine

open Sys2Proof

theorem xorBytes_cancel {x y : List Byte} (h : x.length ≤ y.length) : xorBytes (xorBytes x y) y = x := by
  refine List.ext_getElem (by simpa using h) fun i _ _ => ?_
  simp [xorBytes]

/-- The one law R253 asks of a block function. -/
theorem blockDec_blockEnc {fam : Family} (key : List Byte) {b : List Byte} (hb : b.length = cblock fam) :
    blockDec fam key (blockEnc fam key b) = b := by
  cases fam with
  | aes =>
    simp only [blockDec, blockEnc, aesDec, aesEnc, toBlock, toReg_toList_self, Equiv.symm_apply_apply]
    exact toReg_toList_eq hb
  | tdes =>
    simp only [blockDec, blockEnc, tdesDec, tdesEnc, toReg_toList_self, Equiv.symm_apply_apply]
    exact toReg_toList_eq hb

/-! Cutting joined blocks again. -/

/-- A leading piece is cut off as a block when it is a whole one, or a short one with nothing behind it. -/
theorem blocksOf_append {bs : Nat} {x y : List Byte} (hx : x ≠ []) (hle : x.length ≤ bs) (hlast : x.length = bs ∨ y = []) :
    blocksOf bs (x ++ y) = x :: blocksOf bs y := by
  have hbs : 0 < bs := (List.length_pos_of_ne_nil hx).trans_le hle
  rw [blocksOf_cons hbs (List.append_ne_nil_of_left_ne_nil hx y)]
  obtain hwhole | rfl := hlast
  · rw [List.take_left' hwhole, List.drop_left' hwhole]
  · rw [List.append_nil, List.take_of_length_le hle, List.drop_of_length_le hle]

theorem blocksOf_of_full {bs : Nat} (hbs : 0 < bs) {bl : List (List Byte)} (h : ∀ b ∈ bl, b.length = bs) :
    blocksOf bs bl.flatten = bl := by
  induction bl with
  | nil => exact blocksOf_nil bs
  | cons b bl ih =>
    obtain ⟨hb, hbl⟩ := List.forall_mem_cons.mp h
    rw [List.flatten_cons, blocksOf_append (List.ne_nil_of_length_pos (hb ▸ hbs)) hb.le (.inl hb), ih hbl]

/-! The modes over whole blocks (R263, R264). -/

theorem map_blockDec_blockEnc {fam : Family} (key : List Byte) {bl : List (List Byte)} (h : ∀ b ∈ bl, b.length = cblock fam) :
    (bl.map (blockEnc fam key)).map (blockDec fam key) = bl := by
  rw [List.map_map]
  exact (List.map_congr_left fun b hb => blockDec_blockEnc key (h b hb)).trans bl.map_id

/-- Each `P_i` comes back from its `C_i` and the block chained in (R264). -/
theorem cbcDec_cbcEnc {fam : Family} (key : List Byte) {bl : List (List Byte)} (h : ∀ b ∈ bl, b.length = cblock fam)
    {prev : List Byte} (hprev : prev.length = cblock fam) : cbcDec fam key prev (cbcEnc fam key prev bl) = bl := by
  induction bl generalizing prev with
  | nil => rfl
  | cons p bl ih =>
    obtain ⟨hp, hbl⟩ := List.forall_mem_cons.mp h
    have hblock : (xorBytes p prev).length = cblock fam := by rw [xorBytes_length, hp, hprev, Nat.min_self]
    rw [cbcEnc, cbcDec, blockDec_blockEnc key hblock, xorBytes_cancel (hp.trans hprev.symm).le,
      ih hbl (blockEnc_length fam key _)]

section

variable {fam : Family} {x : List Byte} (h : x.length % cblock fam = 0) (key : List Byte) (dir : Dir) (iv : Block)

include h

theorem blockCipherApply_ecb :
    blockCipherApply fam key .ecb dir iv x = (ecbApply fam key dir (blocksOf (cblock fam) x)).flatten := if_pos h

theorem blockCipherApply_cbc_encrypt :
    blockCipherApply fam key .cbc .encrypt iv x
      = (cbcEnc fam key (iv.toList.take (cblock fam)) (blocksOf (cblock fam) x)).flatten := if_pos h

theorem blockCipherApply_cbc_decrypt :
    blockCipherApply fam key .cbc .decrypt iv x
      = (cbcDec fam key (iv.toList.take (cblock fam)) (blocksOf (cblock fam) x)).flatten := if_pos h

theorem ecb_inverts : blockCipherApply fam key .ecb .decrypt iv (blockCipherApply fam key .ecb .encrypt iv x) = x := by
  have hfull := blocksOf_full (cblock_pos fam) x h
  rw [blockCipherApply_ecb (by rwa [blockCipherApply_length]), blockCipherApply_ecb h]
  simp only [ecbApply]
  rw [blocksOf_of_full (cblock_pos fam) (List.forall_mem_map.mpr fun b _ => blockEnc_length fam key b),
    map_blockDec_blockEnc key hfull, blocksOf_flatten (cblock_pos fam)]

theorem cbc_inverts : blockCipherApply fam key .cbc .decrypt iv (blockCipherApply fam key .cbc .encrypt iv x) = x := by
  have hfull := blocksOf_full (cblock_pos fam) x h
  have hiv : (iv.toList.take (cblock fam)).length = cblock fam := by cases fam <;> simp [cblock]
  rw [blockCipherApply_cbc_decrypt (by rwa [blockCipherApply_length]), blockCipherApply_cbc_encrypt h,
    blocksOf_of_full (cblock_pos fam) (cbcEnc_blocks _ _ _ _).2, cbcDec_cbcEnc key hfull hiv,
    blocksOf_flatten (cblock_pos fam)]

end

/-! The counter modes (R266, R267). -/

/-- Counter mode, whatever the increment, is its own inverse on a string of any length: the key stream is the same both times. -/
theorem ctrApply_ctrApply (inc : Block → Block) (key : List Byte) (t : Block) (x : List Byte) :
    (ctrApply inc key t (blocksOf 16 (ctrApply inc key t (blocksOf 16 x)).flatten)).flatten = x := by
  induction x using blocks_induction (bs := 16) (by norm_num) generalizing t with
  | h0 => simp [blocksOf_nil, ctrApply]
  | h1 x hx ih =>
    have hpos := List.length_pos_of_ne_nil hx
    have hstream : (x.take 16).length ≤ (aesEnc key t).toList.length := by simp
    have hblock : (xorBytes (x.take 16) (aesEnc key t).toList).length = min 16 x.length := by simp
    have hlast : (xorBytes (x.take 16) (aesEnc key t).toList).length = 16
        ∨ (ctrApply inc key (inc t) (blocksOf 16 (x.drop 16))).flatten = [] := by
      rw [← List.length_eq_zero_iff, ctrApply_length, hblock, List.length_drop]
      omega
    rw [blocksOf_cons (by norm_num) hx, ctrApply, List.flatten_cons,
      blocksOf_append (List.ne_nil_of_length_pos (by omega)) (by omega) hlast, ctrApply, List.flatten_cons, ih,
      xorBytes_cancel hstream, List.take_append_drop]

theorem ctr_inverts (key : List Byte) (iv : Block) (x : List Byte) :
    blockCipherApply .aes key .ctr .decrypt iv (blockCipherApply .aes key .ctr .encrypt iv x) = x :=
  ctrApply_ctrApply inc128 key iv x

theorem gctr_inverts (key : List Byte) (iv : Block) (x : List Byte) :
    blockCipherApply .aes key .gctr .decrypt iv (blockCipherApply .aes key .gctr .encrypt iv x) = x :=
  ctrApply_ctrApply inc32 key iv x

/-- Settles O51, mode by mode. -/
theorem cipherInverts : Obligations.CipherInverts := by
  intro fam key mode iv x hwhole hfam
  have hmod (h : mode = .ecb ∨ mode = .cbc) : x.length % cblock fam = 0 := by
    have hdvd := hwhole h
    cases fam <;> exact Nat.mod_eq_zero_of_dvd hdvd
  cases mode with
  | ecb => exact ecb_inverts (hmod (.inl rfl)) key iv
  | cbc => exact cbc_inverts (hmod (.inr rfl)) key iv
  | ctr => obtain rfl := hfam (.inl rfl); exact ctr_inverts key iv x
  | gctr => obtain rfl := hfam (.inr rfl); exact gctr_inverts key iv x

end Sys2Proof.Machine

/-! What the host can learn (`spec/60_exceptions.md` R300): the host port never looks at what a blanked state has lost. An
operation on the blanked state and one on the state itself leave states that blank alike, and a read answers alike. -/

namespace Sys2Proof.Machine

open Sys2Proof Sys2Proof.Safety

/-- The two blankings of R300: of the secrets alone, and of everything hidden. -/
def IsBlanking (f : State → State) : Prop := f = visible ∨ f = concealed

section

variable {f : State → State} (hf : IsBlanking f)

include hf

theorem IsBlanking.busy (s : State) : (f s).status.busy = s.status.busy := by
  obtain rfl | rfl := hf <;> rfl

theorem IsBlanking.caps (s : State) : (f s).caps = s.caps := by
  obtain rfl | rfl := hf <;> rfl

/-! Writes. -/

theorem IsBlanking.hostWriteReg (s : State) (n : Nat) (v : Word) : f ((f s).hostWriteReg n v) = f (s.hostWriteReg n v) := by
  unfold State.hostWriteReg
  rw [hf.busy]
  split
  · obtain rfl | rfl := hf <;> rfl
  · split
    all_goals obtain rfl | rfl := hf <;> rfl

/-- The one space a blanking empties is `KEYBUF`, whatever is written there. -/
theorem IsBlanking.writeRange (s : State) (sp : Space) (off : Nat) (bs : List Byte) :
    f ((f s).writeRange sp off bs) = f (s.writeRange sp off bs) := by
  obtain rfl | rfl := hf <;> cases sp <;> rfl

theorem IsBlanking.idem (s : State) : f (f s) = f s := by
  obtain rfl | rfl := hf <;> rfl

theorem IsBlanking.hostWriteByte (s : State) (sp : Space) (off : Nat) (b : Byte) :
    f ((f s).hostWriteByte sp off b) = f (s.hostWriteByte sp off b) := by
  unfold State.hostWriteByte
  rw [hf.busy, hf.caps]
  repeat' split
  case isFalse.isFalse.isFalse => exact hf.writeRange s sp off [b]
  all_goals exact hf.idem s

/-! Reads: the answer, and the state after, blanked. -/

theorem IsBlanking.readByte (s : State) {sp : Space} (hsp : sp ≠ .keyBuf) : (f s).readByte sp = s.readByte sp := by
  cases sp with
  | keyBuf => exact absurd rfl hsp
  | _ => obtain rfl | rfl := hf <;> rfl

theorem IsBlanking.freeWord (s : State) : (f s).freeWord = s.freeWord := by
  obtain rfl | rfl := hf <;> rfl

theorem IsBlanking.freed (s : State) : (f s).freed = f s.freed := by
  obtain rfl | rfl := hf <;> rfl

/-- `KEYBUF` reads 0 whatever it holds (R101). -/
theorem IsBlanking.hostReadByte (s : State) (sp : Space) (off : Nat) :
    (f s).hostReadByte sp off = ((s.hostReadByte sp off).1, f (s.hostReadByte sp off).2) := by
  unfold State.hostReadByte
  rw [hf.busy, hf.caps, hf.freeWord, hf.freed]
  split
  · rfl
  · split
    · rfl
    · rename_i hkey
      rw [hf.readByte s hkey]
      split <;> rfl

theorem IsBlanking.planWord (s : State) : (f s).planWord = s.planWord := by
  obtain rfl | rfl := hf <;> rfl

theorem IsBlanking.hostReadPlan (s : State) (i : Nat) :
    (f s).hostReadPlan i = ((s.hostReadPlan i).1, f (s.hostReadPlan i).2) := by
  unfold State.hostReadPlan
  rw [hf.busy, hf.planWord, hf.freeWord, hf.freed]
  repeat' split
  all_goals rfl

theorem IsBlanking.regValue (s : State) (n : Nat) : (f s).regValue n = s.regValue n := by
  obtain rfl | rfl := hf <;> rfl

/-- Every register read but that of `STATUS` while busy answers what the blanked state answers. -/
theorem IsBlanking.hostReadReg_answer (s : State) {n : Nat} (h : n ≠ 1 ∨ s.status.busy = false) :
    ((f s).hostReadReg n).1 = (s.hostReadReg n).1 := by
  unfold State.hostReadReg
  rw [hf.busy, hf.regValue, hf.freeWord]
  split
  · rfl
  · split
    · rfl
    · rename_i hbusy
      have hn : n ≠ 1 := h.resolve_right (by simpa using hbusy)
      rw [if_neg hn, if_neg hn]

theorem IsBlanking.hostReadReg_state (s : State) (n : Nat) : ((f s).hostReadReg n).2 = f (s.hostReadReg n).2 := by
  unfold State.hostReadReg
  rw [hf.busy, hf.freed]
  repeat' split
  all_goals rfl

end

/-! `STATUS` while busy (R63(b)): its bit `SP` alone looks at the context, at `PHASE` and at `PEND`. -/

theorem readReg_cases (s : State) (n : Nat) :
    (n ≠ 1 ∨ s.status.busy = false) ∨ (n = 1 ∧ s.status.busy = true) := by
  cases s.status.busy with
  | false => exact .inl (.inr rfl)
  | true => exact (ne_or_eq n 1).imp .inl fun h => ⟨h, rfl⟩

/-- The Mode Selector reads the modes and lengths of the context, which `visible` keeps. -/
theorem visible_busyStatus (s : State) : (visible s).busyStatus = s.busyStatus := rfl

theorem visible_hostReadReg (s : State) (n : Nat) : ((visible s).hostReadReg n).1 = (s.hostReadReg n).1 := by
  obtain h | ⟨rfl, hbusy⟩ := readReg_cases s n
  · exact IsBlanking.hostReadReg_answer (.inl rfl) s h
  · rw [hostReadReg_status_of_busy hbusy, hostReadReg_status_of_busy (s := visible s) hbusy, visible_busyStatus]

theorem flagBit_getLsbD {i j : Nat} (b : Bool) (h : j ≠ i) : (flagBit b i).getLsbD j = false := by
  cases b with
  | false => simp [flagBit]
  | true => rw [flagBit, if_pos rfl, BitVec.getLsbD_ofNat, Nat.testBit_two_pow_of_ne h.symm, Bool.and_false]

/-- The flag `SP` shows in bit 4 only (R78). -/
theorem statusWord_getLsbD_of_ne_sp (st : Status) (a b : Bool) {j : Nat} (h : j ≠ 4) :
    (Status.word { st with sp := a }).getLsbD j = (Status.word { st with sp := b }).getLsbD j := by
  simp only [Status.word, BitVec.getLsbD_or, flagBit_getLsbD _ h]

theorem concealed_hostReadReg_bit (s : State) (n : Nat) {j : Nat} (hj : j ≠ 4) :
    ((concealed s).hostReadReg n).1.getLsbD j = (s.hostReadReg n).1.getLsbD j := by
  obtain h | ⟨rfl, hbusy⟩ := readReg_cases s n
  · rw [IsBlanking.hostReadReg_answer (.inr rfl) s h]
  · rw [hostReadReg_status_of_busy hbusy, hostReadReg_status_of_busy (s := concealed s) hbusy]
    exact statusWord_getLsbD_of_ne_sp s.status _ _ hj

/-! Host operations, and runs of them. -/

theorem visible_answered (s : State) (v : Word) :
    visible { visible s with rdata := v } = visible { s with rdata := v } := rfl

theorem concealed_answered (s : State) (v w : Word) :
    concealed { concealed s with rdata := v } = concealed { s with rdata := w } := rfl

theorem visible_hostOp (s : State) (op : HostOp) : visible ((visible s).hostOp op) = visible (s.hostOp op) := by
  have hf : IsBlanking visible := .inl rfl
  cases op with
  | readReg n =>
    simp only [State.hostOp, hf.hostReadReg_state, visible_hostReadReg]
    exact visible_answered _ _
  | writeReg n v => exact hf.hostWriteReg s n v
  | readByte sp off =>
    simp only [State.hostOp, hf.hostReadByte]
    exact visible_answered _ _
  | writeByte sp off b => exact hf.hostWriteByte s sp off b
  | readPlan i =>
    simp only [State.hostOp, hf.hostReadPlan]
    exact visible_answered _ _
  | writePlan i w => rfl

theorem concealed_hostOp (s : State) (op : HostOp) : concealed ((concealed s).hostOp op) = concealed (s.hostOp op) := by
  have hf : IsBlanking concealed := .inr rfl
  cases op with
  | readReg n =>
    simp only [State.hostOp, hf.hostReadReg_state]
    exact concealed_answered _ _ _
  | writeReg n v => exact hf.hostWriteReg s n v
  | readByte sp off =>
    simp only [State.hostOp, hf.hostReadByte]
    exact concealed_answered _ _ _
  | writeByte sp off b => exact hf.hostWriteByte s sp off b
  | readPlan i =>
    simp only [State.hostOp, hf.hostReadPlan]
    exact concealed_answered _ _ _
  | writePlan i w => rfl

/-- States that blank alike still do after the same host operations. -/
theorem hostRun_blank {f : State → State} (hop : ∀ s op, f ((f s).hostOp op) = f (s.hostOp op)) (ops : List HostOp)
    {s t : State} (h : f s = f t) : f (hostRun s ops) = f (hostRun t ops) := by
  induction ops generalizing s t with
  | nil => exact h
  | cons op ops ih => exact ih (by rw [← hop s, h, hop t])

/-- A read's answer agrees with that of the state with everything hidden blanked out, but for `SP` while busy. -/
theorem concealed_answer (s : State) {op : HostOp}
    (hread : (∃ n, op = .readReg n) ∨ (∃ sp off, op = .readByte sp off) ∨ (∃ i, op = .readPlan i)) :
    (op ≠ .readReg 1 ∨ s.status.busy = false → ((concealed s).hostOp op).rdata = (s.hostOp op).rdata)
      ∧ ∀ j, j ≠ 4 → ((concealed s).hostOp op).rdata.getLsbD j = (s.hostOp op).rdata.getLsbD j := by
  have hf : IsBlanking concealed := .inr rfl
  obtain ⟨n, rfl⟩ | ⟨sp, off, rfl⟩ | ⟨i, rfl⟩ := hread
  · exact ⟨fun h => hf.hostReadReg_answer s (h.imp_left fun hne hn => hne (congrArg _ hn)),
      fun _ hj => concealed_hostReadReg_bit s n hj⟩
  · have hanswer : ((concealed s).hostOp (.readByte sp off)).rdata = (s.hostOp (.readByte sp off)).rdata := by
      simp only [State.hostOp, hf.hostReadByte]
    exact ⟨fun _ => hanswer, fun j _ => congrArg (·.getLsbD j) hanswer⟩
  · have hanswer : ((concealed s).hostOp (.readPlan i)).rdata = (s.hostOp (.readPlan i)).rdata := by
      simp only [State.hostOp, hf.hostReadPlan]
    exact ⟨fun _ => hanswer, fun j _ => congrArg (·.getLsbD j) hanswer⟩

/-- Settles O14: `visible` keeps the answer in `rdata`; two states that are concealed alike answer as the concealed one does. -/
theorem secretsInvisible : Obligations.SecretsInvisible := by
  intro s t ops
  refine ⟨fun h => ?_, fun h => ?_⟩
  · have hrun := hostRun_blank visible_hostOp ops h
    have hanswer : (visible (hostRun s ops)).rdata = (visible (hostRun t ops)).rdata := by rw [hrun]
    exact ⟨hrun, hanswer⟩
  · have hrun := hostRun_blank concealed_hostOp ops h
    refine ⟨hrun, fun op hread => ?_⟩
    obtain ⟨hs, hsbit⟩ := concealed_answer (hostRun s ops) hread
    obtain ⟨ht, htbit⟩ := concealed_answer (hostRun t ops) hread
    have hbusy : (hostRun s ops).status.busy = (hostRun t ops).status.busy := congrArg (·.status.busy) hrun
    refine ⟨fun hidle => ?_, fun j hj => ?_⟩
    · rw [← hs hidle, ← ht (hbusy ▸ hidle), hrun]
    · rw [← hsbit j hj, ← htbit j hj, hrun]

end Sys2Proof.Machine
